-- ==== Sys2Proof/Word.lean ====
section
/-! DEFINITION. The bit-vector widths of the machine (00_scope.md R5, R6; widths 8, 16, 32 from GK1). -/

namespace Sys2Proof

/-- A byte of memory, 8 bits (20_memory.md R60). -/
abbrev Byte := BitVec 8

/-- 16 bits: a selector, IP, SP, FLAGS, IDTR.limit, an error code. -/
abbrev Half := BitVec 16

/-- 32 bits: EIP, ESP, EFLAGS, a linear address (00_scope.md R5, `XLEN`). -/
abbrev Word := BitVec 32

/-- 64 bits: a protected-mode IDT entry (20_memory.md R67). -/
abbrev Quad := BitVec 64

end Sys2Proof
end

