-- ==== Sys2Proof/Syntax.lean ====
section
/-! DEFINITION. The instructions: one constructor for each row of spec/opcode_table.json. -/

namespace Sys2Proof

/-- The three instructions in scope (30_encoding.md R93). -/
inductive Instr where
  /-- INT 3, encoding `CC` (40_int.md R111). -/
  | int3
  /-- INT imm8, encoding `CD ib`; `ib` is the interrupt vector number (40_int.md R112). -/
  | intImm8 (ib : Byte)
  /-- INTO, encoding `CE` (40_int.md R113). -/
  | into
deriving DecidableEq, Repr

/-- Which encoding started a delivery (00_scope.md R7, `Deliver`; 30_encoding.md R94). -/
inductive Kind where
  | cc
  | cd
  | ce
deriving DecidableEq, Repr

end Sys2Proof
end

