-- ==== Sys2Proof/WellFormed.lean ====
section
/-! DEFINITION. Which instruction terms are well-formed. The one operand, `ib`, is a byte, and all 256 values
are legal encodings (30_encoding.md R92, R94), so the types leave nothing to check and no term is ill-formed. -/

namespace Sys2Proof

/-- A well-formed instruction. INT 3 and INTO have no operand; `ib` may be any byte (30_encoding.md R92). -/
def Instr.wellFormed : Instr → Bool
  | .int3 => true
  | .intImm8 _ => true
  | .into => true

end Sys2Proof
end

