-- ==== Sys2Proof/Decode.lean ====
section
/-! DEFINITION. The decoder (30_encoding.md R98), total on any bytes; the encoder, from the same encoding tables
(R90, R91); and what an encoding fixes: length, kind and vector number. -/

namespace Sys2Proof

/-- Why bytes decode to no instruction in scope. -/
inductive DecodeError where
  /-- Byte 0 is none of CC, CD, CE (30_encoding.md R96). -/
  | opcode (b : Byte)
  /-- The bytes end before the instruction does: nothing at all, or CD without its `ib` (30_encoding.md R101). -/
  | truncated
deriving DecidableEq, Repr

/-- The decoding procedure of 30_encoding.md R98: byte 0 alone decides; `ib` is the next byte, unsigned (R92). The
bytes after the instruction are returned. -/
def decode : List Byte → Except DecodeError (Instr × List Byte)
  | [] => .error .truncated
  | b0 :: rest =>
    if b0 = 0xCC then .ok (.int3, rest)
    else if b0 = 0xCE then .ok (.into, rest)
    else if b0 = 0xCD then
      match rest with
      | [] => .error .truncated
      | b1 :: rest' => .ok (.intImm8 b1, rest')
    else .error (.opcode b0)

/-- The encoding, lowest address first (30_encoding.md R90, R91). -/
def encode : Instr → List Byte
  | .int3 => [0xCC]
  | .intImm8 ib => [0xCD, ib]
  | .into => [0xCE]

/-- The length in bytes (30_encoding.md R91). -/
def instrLength : Instr → Nat
  | .int3 => 1
  | .intImm8 _ => 2
  | .into => 1

/-- Which encoding it is (00_scope.md R7). -/
def instrKind : Instr → Kind
  | .int3 => .cc
  | .intImm8 _ => .cd
  | .into => .ce

/-- The vector number: the constant 3, the immediate, the constant 4 (30_encoding.md R92, R93). -/
def instrVector : Instr → Nat
  | .int3 => 3
  | .intImm8 ib => ib.toNat
  | .into => 4

/-- The two bytes of an instruction given as one number, bit 0 the least significant bit of the first byte; the bits
from `nbits` up are zero (the numbering of spec/opcode_table.json). Two bytes is the longest instruction (R91). -/
def tableBytes (nbits w : Nat) : List Byte :=
  [BitVec.ofNat 8 (w % 2 ^ nbits), BitVec.ofNat 8 (w % 2 ^ nbits / 256)]

/-- The instruction the decoder reads from a word numbered as the opcode table numbers it. -/
def decodeTableWord (nbits w : Nat) : Option Instr :=
  match decode (tableBytes nbits w) with
  | .ok (i, _) => some i
  | .error _ => none

end Sys2Proof
end

