-- ==== Sys2Proof/Machine/Flags.lean ====
section
/-! DEFINITION. EFLAGS: the bit positions, reading, clearing and setting a flag, and which flags each kind of
delivery clears (10_state.md R27, R28, R30; 40_int.md R114; 60_exceptions.md R139). -/

namespace Sys2Proof.Machine

/-- The one-bit flags of EFLAGS (10_state.md R27, R28). IOPL, two bits, is `iopl`. -/
inductive Flag where
  | cf | pf | af | zf | sf | tf | ifl | df | ofl | nt | rf | vm | ac | vif | vip | id
deriving DecidableEq, Repr

/-- The bit position of a flag (10_state.md R28). -/
def flagPos : Flag → Nat
  | .cf => 0
  | .pf => 2
  | .af => 4
  | .zf => 6
  | .sf => 7
  | .tf => 8
  | .ifl => 9
  | .df => 10
  | .ofl => 11
  | .nt => 14
  | .rf => 16
  | .vm => 17
  | .ac => 18
  | .vif => 19
  | .vip => 20
  | .id => 21

/-- The value of a flag. -/
def getFlag (f : Flag) (w : Word) : Bool := w.getLsbD (flagPos f)

/-- The word with only that flag's bit set. -/
def flagMask (f : Flag) : Word := BitVec.twoPow 32 (flagPos f)

/-- The flag cleared, the rest unchanged. -/
def clearFlag (f : Flag) (w : Word) : Word := w &&& ~~~ flagMask f

/-- The flag set, the rest unchanged (only TaskSwitch sets one, NT: 60_exceptions.md R137). -/
def setFlag (f : Flag) (w : Word) : Word := w ||| flagMask f

/-- The named flags cleared, the rest unchanged. -/
def clearFlags (fs : List Flag) (w : Word) : Word := fs.foldl (fun v f => clearFlag f v) w

/-- IOPL, bits 13:12 (10_state.md R28, R30). -/
def iopl (w : Word) : BitVec 2 := w.extractLsb' 12 2

/-- FLAGS, the low half of EFLAGS (10_state.md R28). -/
def flagsImage16 (w : Word) : Half := w.extractLsb' 0 16

/-- The reserved bits as 10_state.md R28 keeps them: bit 1 is 1, bits 3, 5, 15 and 31:22 are 0. -/
def reservedFlagsOk (w : Word) : Bool := decide (w &&& 0xFFC0802A = 0x00000002)

/-- What a real-address-mode delivery clears (60_exceptions.md R139, row 1). -/
def realCleared : List Flag := [.ifl, .tf, .ac]

/-- What a delivery through an interrupt gate clears (60_exceptions.md R139, row 2). -/
def interruptGateCleared : List Flag := [.ifl, .tf, .nt, .vm, .rf]

/-- What a delivery through a trap gate clears (60_exceptions.md R139, row 3). -/
def trapGateCleared : List Flag := [.tf, .nt, .vm, .rf]

end Sys2Proof.Machine
end

