-- ==== Sys2Proof/Config.lean ====
section
/-! DEFINITION. What an implementation fixes (00_scope.md R5), the clock tables, and the free values. -/

namespace Sys2Proof

/-- Size of a real-address-mode IDT entry in bytes, `IVT_ENTRY_BYTES` (00_scope.md R5). -/
def Config.ivtEntryBytes : Nat := 4

/-- Size of a protected-mode IDT entry in bytes, `IDT_ENTRY_BYTES` (00_scope.md R5). -/
def Config.idtEntryBytes : Nat := 8

/-- `GP_V86_ERROR_CODE`, the error code of the #GP of the virtual-8086 IOPL test (00_scope.md R5, 40_int.md R116). -/
def Config.gpV86ErrorCode : Half := 0

/-- What a byte of memory that is not listed reads as. DESIGN CHOICE (unsafe, log entry 2): the spec leaves memory
after reset unspecified (10_state.md R36, U14). -/
def Config.unlistedByte : Byte := 0

/-- FREE VALUE (log entry 10, safe): the upper 16 bits of the 32-bit slot a 16-bit register is pushed in
(20_memory.md R72, U11). It has no body, so a theorem holds whatever it is. -/
opaque Config.freeHalf : Nat → Half

/-- Clocks table 1 (70_reset_and_hazards.md R186): INT 3 13 clocks, INT imm8 16, none stated for INTO. No rule of the
model reads it (D25, log entry 20). -/
def Config.realClocks : List (String × Nat) := [("3 (const)", 13), ("imm8", 16)]

/-- Clocks table 2, "Protected mode:", the range 27 - 82 (70_reset_and_hazards.md R186). No rule of the model reads it. -/
def Config.protectedClocks : Nat × Nat := (27, 82)

end Sys2Proof
end

