-- ==== Sys2Proof/Machine/State.lean ====
section
/-! DEFINITION. The state of the machine (10_state.md R20), as plain data; the faults and refusals a step can end in
(00_scope.md R9); the state after reset (10_state.md R36). -/

namespace Sys2Proof.Machine

/-- The hidden part of a segment register: base, limit, access rights and, for the stack, the size attribute that
selects ESP or SP (10_state.md R24, R26; 20_memory.md R70). -/
structure Hidden where
  base   : Word
  limit  : Word
  access : Byte
  /-- The stack segment's size attribute: true selects ESP, false SP. -/
  big    : Bool
deriving DecidableEq, Repr

/-- A segment register: its 16-bit selector and its hidden part (10_state.md R23 to R26). -/
structure SegReg where
  sel : Half
  hid : Hidden
deriving DecidableEq, Repr

/-- The eight general registers (10_state.md R34). SP is the low half of `esp` (R24). -/
structure Gprs where
  eax : Word
  ecx : Word
  edx : Word
  ebx : Word
  esp : Word
  ebp : Word
  esi : Word
  edi : Word
deriving DecidableEq, Repr

/-- IDTR and GDTR: base and limit (10_state.md R32, R33). -/
structure TableReg where
  base  : Word
  limit : Half
deriving DecidableEq, Repr

/-- LDTR and TR, opaque to the spec: selector, base and limit (10_state.md R33). -/
structure SysSeg where
  sel   : Half
  base  : Word
  limit : Word
deriving DecidableEq, Repr

/-- The exception a step ends in (00_scope.md R9, 60_exceptions.md R141): `code` is the 16-bit error code, or `none` in
real-address mode. Every constructor is SAFE: the state is the one before the step and the model stops, where the
processor would go on to deliver the exception (log entry 19). -/
inductive Fault where
  /-- #GP, general protection. Raised by the IDT limit check (20_memory.md R69), the virtual-8086 IOPL test
  (40_int.md R116), a fetch that straddles the end of the offset range (30_encoding.md R101), the gate checks and the
  code-segment checks (60_exceptions.md R137), and the level-0 check from virtual-8086 mode (R136). Safe. -/
  | gp (code : Option Half)
  /-- #SS, stack. Raised by a real-address-mode push that would straddle offset 0xFFFF (20_memory.md R73), and by
  StackSwitch (60_exceptions.md R137). Safe. -/
  | ss (code : Option Half)
  /-- #NP, not present. Raised by a gate or a code segment that is not present (60_exceptions.md R137). Safe. -/
  | np (code : Option Half)
  /-- #TS, invalid TSS. Raised only by StackSwitch or TaskSwitch (60_exceptions.md R137, R140). Safe. -/
  | ts (code : Option Half)
  /-- Page fault. Raised only by TaskSwitch, where its supplier says so (60_exceptions.md R140). Safe. -/
  | pf (code : Option Half)
deriving DecidableEq, Repr

/-- Why the spec gives a step no meaning (00_scope.md R9). Every constructor is SAFE: the model stops where the
processor may go on. -/
inductive Refusal where
  /-- An arm of `exec` without a meaning. No arm is left so; nothing raises it. -/
  | notModelled (mnemonic : String)
  /-- Byte 0 is none of CC, CD, CE (30_encoding.md R96). Raised by `step`. -/
  | opcodeNotInScope (b : Byte)
  /-- A byte of the stack frame is a byte of the IDT entry (20_memory.md R77). Raised by a delivery. -/
  | frameOverlapsIdtEntry
  /-- `CD ib` in virtual-8086 mode with VME on (40_int.md R116, 60_exceptions.md R147). Raised by INT imm8. -/
  | vmeRedirection
  /-- Every OPEN parameter stands at its default, and a gate check would fail: what reads the IDT is refused then
  (00_scope.md R4; 93_implementation_defined.md U6; log entry 25). Raised by a protected-mode delivery. -/
  | parametersAtDefault
  /-- LoadCodeSegment is not supplied: `codeTable` is `none` (60_exceptions.md R137). Raised by a delivery through an
  interrupt or trap gate. -/
  | loadCodeSegmentNotSupplied
  /-- StackSwitch is not supplied: the current TSS is not listed (60_exceptions.md R137). Raised by a delivery that
  changes the privilege level. -/
  | stackSwitchNotSupplied
  /-- TaskSwitch is not supplied: the new or the current TSS is not listed (60_exceptions.md R138). Raised by a
  delivery through a task gate. -/
  | taskSwitchNotSupplied
  /-- The state is no launch state of the machine (70_reset_and_hazards.md R181; 10_state.md R28, R29). Raised by
  `step`, for the state after reset too (R181); no step leads to such a state while the task images meet the invariant. -/
  | notALaunchState
deriving DecidableEq, Repr

/-- What LoadCodeSegment reads of a code-segment descriptor, decoded (60_exceptions.md R137): the layout in memory is
not in the spec (00_scope.md R3; log entry 7). -/
structure CodeDesc where
  isCode     : Bool
  conforming : Bool
  dpl        : BitVec 2
  present    : Bool
  hid        : Hidden
deriving DecidableEq, Repr

/-- One descriptor of the GDT (`ldt = none`) or of the LDT that LDTR selector names, and the selector that selects it. -/
structure CodeEntry where
  ldt  : Option Half
  sel  : Half
  desc : CodeDesc
deriving DecidableEq, Repr

/-- What StackSwitch finds in a TSS for one level (60_exceptions.md R137): a stack, or the exception it raises. -/
inductive StackImage where
  | stack (ss : SegReg) (esp : Word)
  | raises (f : Fault)
deriving DecidableEq, Repr

/-- What a task switch saves and loads (60_exceptions.md R137, R138): EFLAGS, the general registers, the segment
registers, EIP, and with them LDTR and CPL. -/
structure Context where
  eip    : Word
  eflags : Word
  cpl    : BitVec 2
  cs     : SegReg
  ss     : SegReg
  ds     : SegReg
  es     : SegReg
  fs     : SegReg
  gs     : SegReg
  gpr    : Gprs
  ldtr   : SysSeg
deriving DecidableEq, Repr

/-- A task state segment, decoded (60_exceptions.md R137, R138; log entries 8 and 9). -/
structure Tss where
  /-- The register image. -/
  ctx      : Context
  /-- The selector of the task that nested into this one. -/
  backLink : Half
  /-- The TSS busy bit (10_state.md R37). -/
  busy     : Bool
  /-- The hidden part TR gets. -/
  base     : Word
  limit    : Word
  /-- The stacks for levels 0, 1 and 2. -/
  ring0    : StackImage
  ring1    : StackImage
  ring2    : StackImage
  /-- The exception TaskSwitch raises instead of switching to this task, if any (60_exceptions.md R140, last row). -/
  raises   : Option Fault
deriving DecidableEq, Repr

/-- A task state segment and the selector that selects it. -/
structure TssEntry where
  sel : Half
  tss : Tss
deriving DecidableEq, Repr

/-- Memory: the listed bytes, addresses strictly rising, none equal to `Config.unlistedByte` (20_memory.md R60). -/
abbrev Memory := List Host.Cell

/-- The state of the machine (10_state.md R20). -/
structure State where
  /-- EIP (R21). -/
  eip    : Word
  /-- EFLAGS (R27, R28). -/
  eflags : Word
  /-- The current privilege level (R31). -/
  cpl    : BitVec 2
  /-- CS (R23, R26). -/
  cs     : SegReg
  /-- SS (R24, R26). -/
  ss     : SegReg
  /-- DS, ES, FS, GS (R25, R26). -/
  ds     : SegReg
  es     : SegReg
  fs     : SegReg
  gs     : SegReg
  /-- CS has not been loaded since reset: its base is the hidden one, not selector << 4 (R36). `step`
  refuses a launch in that state in real-address mode (70_reset_and_hazards.md R181). -/
  csAtReset : Bool
  /-- The general registers, ESP among them (R24, R34). -/
  gpr    : Gprs
  /-- IDTR (R32). -/
  idtr   : TableReg
  /-- GDTR, LDTR, TR (R33). -/
  gdtr   : TableReg
  ldtr   : SysSeg
  tr     : SysSeg
  /-- CR0.PE and CR4.VME (R29, R33). -/
  cr0PE  : Bool
  cr4VME : Bool
  /-- The OPEN parameter `into_iopl_sensitive` (40_int.md R118); never written (log entry 6). -/
  intoIoplSensitive : Bool
  /-- The code segments LoadCodeSegment finds; `none`: the parameter is not supplied (60_exceptions.md R137). -/
  codeTable : Option (List CodeEntry)
  /-- The task state segments StackSwitch and TaskSwitch find; a TSS not listed is not supplied (R137, R138). -/
  tssTable  : List TssEntry
  /-- THE MODEL'S OWN: how many free values have been used (log entry 10). -/
  freeCount : Nat
  /-- Linear memory (20_memory.md R60). -/
  mem    : Memory
deriving DecidableEq, Repr

/-- The hidden part of a segment register at reset with the given base: the limit, access rights and size attribute
are PRESUMED, the family's (log entry 21, unsafe). -/
def Hidden.atReset (base : Word) : Hidden :=
  { base := base, limit := 0x0000FFFF, access := 0x93, big := false }

/-- SS, DS, ES, FS, GS at reset: selector 0, base 0 (10_state.md R36). -/
def SegReg.atReset : SegReg := { sel := 0, hid := Hidden.atReset 0 }

/-- LDTR and TR at reset: PRESUMED, the family's (log entry 21, unsafe). -/
def SysSeg.atReset : SysSeg := { sel := 0, base := 0, limit := 0x0000FFFF }

/-- The machine right after reset (10_state.md R36, 70_reset_and_hazards.md R180). -/
def State.reset : State where
  eip    := 0x0000FFF0
  eflags := 0x00000002
  cpl    := 0
  cs     := { sel := 0xF000, hid := Hidden.atReset 0xFFFF0000 }
  ss     := SegReg.atReset
  ds     := SegReg.atReset
  es     := SegReg.atReset
  fs     := SegReg.atReset
  gs     := SegReg.atReset
  csAtReset := true
  -- EDX "holds a processor signature" (R36); the number is PRESUMED, the family's (log entry 22, unsafe).
  gpr    := { eax := 0, ecx := 0, edx := 0x00000500, ebx := 0, esp := 0, ebp := 0, esi := 0, edi := 0 }
  idtr   := { base := 0, limit := 0xFFFF }
  gdtr   := { base := 0, limit := 0xFFFF }
  ldtr   := SysSeg.atReset
  tr     := SysSeg.atReset
  cr0PE  := false
  cr4VME := false
  intoIoplSensitive := false
  codeTable := none
  tssTable  := []
  freeCount := 0
  mem    := []

end Sys2Proof.Machine
end

