-- ==== Sys2Proof/Machine/Memory.lean ====
section
/-! DEFINITION. Memory: one byte, its canonical form, and multi-byte values in the byte order of 20_memory.md R61. -/

namespace Sys2Proof.Machine

/-- One byte of memory. -/
def Memory.read : Memory → Nat → Byte
  | [], _ => Config.unlistedByte
  | (k, v) :: m, a => if k = a then v else Memory.read m a

/-- The byte listed at its place in the order of addresses. -/
def Memory.insert : Memory → Nat → Byte → Memory
  | [], a, b => [(a, b)]
  | (k, v) :: m, a, b =>
    if a < k then (a, b) :: (k, v) :: m
    else if a = k then (a, b) :: m
    else (k, v) :: Memory.insert m a b

/-- One byte stored. Storing what an unlisted byte reads as removes the entry. -/
def Memory.write (m : Memory) (a : Nat) (b : Byte) : Memory :=
  if b = Config.unlistedByte then m.filter (fun c => decide (c.1 ≠ a)) else Memory.insert m a b

/-- The canonical form: addresses below 2^32 and strictly rising, no entry equal to what an unlisted byte reads as. -/
def Memory.wf (m : Memory) : Bool :=
  decide (m.Pairwise (fun c d => c.1 < d.1)) && m.all (fun c => decide (c.1 < 2 ^ 32 ∧ c.2 ≠ Config.unlistedByte))

/-- `Translate`, linear to physical: the identity, paging off (20_memory.md R62, log entry 12). -/
def translateLinear (_s : State) (a : Word) : Word := a

/-- The byte at a linear address. -/
def readByte (s : State) (a : Word) : Byte := s.mem.read (translateLinear s a).toNat

/-- A 16-bit value, the least significant byte at the lowest address (20_memory.md R61). -/
def read16 (s : State) (a : Word) : Half := readByte s (a + 1) ++ readByte s a

/-- A 32-bit value, little-endian (20_memory.md R61). -/
def read32 (s : State) (a : Word) : Word := read16 s (a + 2) ++ read16 s a

/-- A 64-bit value, little-endian (20_memory.md R61). -/
def read64 (s : State) (a : Word) : Quad := read32 s (a + 4) ++ read32 s a

/-- The bytes of a 16-bit value, the lowest address first (20_memory.md R61). -/
def bytes16 (v : Half) : List Byte := [v.extractLsb' 0 8, v.extractLsb' 8 8]

/-- The bytes of a 32-bit value, the lowest address first (20_memory.md R61). -/
def bytes32 (v : Word) : List Byte :=
  [v.extractLsb' 0 8, v.extractLsb' 8 8, v.extractLsb' 16 8, v.extractLsb' 24 8]

/-- Bytes laid at consecutive linear addresses, modulo 2^32 (`MemWrite`, 00_scope.md R7). -/
def cellsAt : Word → List Byte → List (Word × Byte)
  | _, [] => []
  | a, b :: bs => (a, b) :: cellsAt (a + 1) bs

/-- Bytes stored one after another, each at its linear address. -/
def writeCells (s : State) (cells : List (Word × Byte)) : Memory :=
  cells.foldl (fun m c => m.write (translateLinear s c.1).toNat c.2) s.mem

end Sys2Proof.Machine
end

