-- ==== Sys2Proof/Machine/Operands.lean ====
section
/-! DEFINITION. The mode of operation, linear addresses, the offset of the next instruction, and the operand forms:
a constant vector, the immediate byte, and a 16-bit or 32-bit value on the stack. -/

namespace Sys2Proof.Machine

/-- The three modes of operation (10_state.md R29, 60_exceptions.md R146). -/
inductive Mode where
  | real
  | prot
  | v86
deriving DecidableEq, Repr

/-- `mode()` (10_state.md R29): CR0.PE and EFLAGS.VM select it. -/
def mode (s : State) : Mode :=
  if s.cr0PE then (if getFlag .vm s.eflags then .v86 else .prot) else .real

/-- The segment registers by name (10_state.md R23 to R25). -/
inductive SegName where
  | cs | ss | ds | es | fs | gs
deriving DecidableEq, Repr

/-- The segment register of that name. -/
def segReg (s : State) : SegName → SegReg
  | .cs => s.cs
  | .ss => s.ss
  | .ds => s.ds
  | .es => s.es
  | .fs => s.fs
  | .gs => s.gs

/-- selector << 4 (20_memory.md R63). -/
def selectorBase (sel : Half) : Word := sel.setWidth 32 <<< 4

/-- The base of a segment: the hidden base in protected mode, selector << 4 in real-address and virtual-8086 mode
(20_memory.md R63); CS in real-address mode keeps its hidden base from reset until it is next loaded
(10_state.md R36). -/
def segBase (s : State) (r : SegName) : Word :=
  match mode s with
  | .prot => (segReg s r).hid.base
  | .v86 => selectorBase (segReg s r).sel
  | .real => if r = .cs ∧ s.csAtReset = true then (segReg s r).hid.base else selectorBase (segReg s r).sel

/-- Of an offset only the low 16 bits count in real-address and virtual-8086 mode (20_memory.md R63). -/
def effectiveOffset (s : State) (off : Word) : Word :=
  match mode s with
  | .prot => off
  | _ => (off.setWidth 16).setWidth 32

/-- `Lin(seg, off)`, the linear address (20_memory.md R63). -/
def lin (s : State) (r : SegName) (off : Word) : Word := segBase s r + effectiveOffset s off

/-- IP, the low half of EIP (10_state.md R21). -/
def ip (s : State) : Half := s.eip.setWidth 16

/-- SP, the low half of ESP (10_state.md R24). -/
def sp (s : State) : Half := s.gpr.esp.setWidth 16

/-- `NextOffset(len)` (40_int.md R115, 10_state.md R22): modulo 2^32 in protected mode, else modulo 2^16. -/
def nextOffset (s : State) (len : Nat) : Word :=
  match mode s with
  | .prot => s.eip + BitVec.ofNat 32 len
  | _ => (ip s + BitVec.ofNat 16 len).setWidth 32

/-- The vector an instruction's immediate byte names: zero-extended, not scaled (30_encoding.md R92). -/
def immVector (ib : Byte) : Nat := ib.toNat

/-- The last offset of the code segment's range (10_state.md R22): a two-byte instruction that starts there
straddles the end (30_encoding.md R101). -/
def atRangeEnd (s : State) : Bool :=
  match mode s with
  | .prot => decide (s.eip = 0xFFFFFFFF)
  | _ => decide (ip s = 0xFFFF)

/-- Where the instruction's bytes are fetched: two offsets, the second only if it is not past the end of the range
(30_encoding.md R90, R98, R101). DESIGN CHOICE (log entry 29): a fetch is checked against no segment limit, in protected
mode neither, where the spec is silent; CS's hidden limit is not read. -/
def fetchAddresses (s : State) : List Word :=
  if atRangeEnd s then [lin s .cs s.eip] else [lin s .cs s.eip, lin s .cs (s.eip + 1)]

/-- The bytes the decoder may look at, from CS:EIP on (30_encoding.md R90, R98). -/
def fetchBytes (s : State) : List Byte := (fetchAddresses s).map (readByte s)

/-- A value as it stands on the stack: two bytes or four (20_memory.md R72). -/
inductive Slot where
  | half (v : Half)
  | word (v : Word)
deriving DecidableEq, Repr

/-- How many bytes a slot takes. -/
def slotBytes : Slot → Nat
  | .half _ => 2
  | .word _ => 4

/-- The bytes of a slot, lowest address first. -/
def slotData : Slot → List Byte
  | .half v => bytes16 v
  | .word v => bytes32 v

end Sys2Proof.Machine
end

