-- ==== Sys2Proof/Machine/Gates.lean ====
section
/-! DEFINITION. The protected-mode machinery of a delivery: gate descriptors (20_memory.md R67, R68) and the OPEN
parameters LoadCodeSegment, StackSwitch and TaskSwitch (60_exceptions.md R137, R138). -/

namespace Sys2Proof.Machine

/-- Why a delivery stops before anything is written (60_exceptions.md R141; 00_scope.md R9). -/
inductive Stop where
  | fault (f : Fault)
  | refuse (r : Refusal)
deriving DecidableEq, Repr

/-- The outcome a stop is. -/
def stopOutcome : Stop → Host.Outcome State Fault Refusal
  | .fault f => .fault f
  | .refuse r => .refused r

/-- The kinds of gate, and `invalid` for what is no gate (20_memory.md R68). -/
inductive GateKind where
  | interrupt
  | trap
  | task
  | invalid
deriving DecidableEq, Repr

/-- The record `DecodeGate` returns (20_memory.md R68); `wide` is size 32, else 16. -/
structure Gate where
  kind     : GateKind
  wide     : Bool
  selector : Half
  offset   : Word
  dpl      : BitVec 2
  present  : Bool
deriving DecidableEq, Repr

/-- The kind by S (bit 44) and type (bits 43:40) (20_memory.md R68). -/
def gateKindOf (sBit : Bool) (type : BitVec 4) : GateKind :=
  if sBit then .invalid
  else if type = 0x5 then .task
  else if type = 0x6 ∨ type = 0xE then .interrupt
  else if type = 0x7 ∨ type = 0xF then .trap
  else .invalid

/-- `DecodeGate`, the layout of 20_memory.md R68 (general knowledge, log entry 5). -/
def decodeGate (g : Quad) : Gate where
  kind     := gateKindOf (g.getLsbD 44) (g.extractLsb' 40 4)
  wide     := decide (g.extractLsb' 40 4 = 0xE ∨ g.extractLsb' 40 4 = 0xF)
  selector := g.extractLsb' 16 16
  offset   := g.extractLsb' 48 16 ++ g.extractLsb' 0 16
  dpl      := g.extractLsb' 45 2
  present  := g.getLsbD 47

/-- The code segment a selector selects: in the GDT, or in the LDT that LDTR names (60_exceptions.md R137). -/
def findCode (ldt sel : Half) (t : List CodeEntry) : Option CodeDesc :=
  (t.find? (fun e => decide (e.sel = sel ∧ (e.ldt = none ∨ e.ldt = some ldt)))).map (·.desc)

/-- The task state segment a selector selects. -/
def findTss (sel : Half) (t : List TssEntry) : Option Tss :=
  (t.find? (fun e => decide (e.sel = sel))).map (·.tss)

/-- A change to the task state segment a selector selects. -/
def updateTss (sel : Half) (f : Tss → Tss) (t : List TssEntry) : List TssEntry :=
  t.map (fun e => if e.sel = sel then { e with tss := f e.tss } else e)

/-- The checks LoadCodeSegment makes of a descriptor (60_exceptions.md R137): a code segment, DPL <= CPL, present. It
answers the hidden part and the new CPL: the segment's DPL if non-conforming, else CPL. -/
def checkCode (sel : Half) (cpl : BitVec 2) (d : CodeDesc) : Except Stop (Hidden × BitVec 2) :=
  if d.isCode = false then .error (.fault (.gp (some sel)))
  else if cpl < d.dpl then .error (.fault (.gp (some sel)))
  else if d.present = false then .error (.fault (.np (some sel)))
  else .ok (d.hid, if d.conforming then cpl else d.dpl)

/-- `LoadCodeSegment(selector, CPL)` (60_exceptions.md R137): refused where not supplied; else not null, inside the
table, and the descriptor's checks (log entry 7). -/
def loadCodeSegment (s : State) (sel : Half) : Except Stop (Hidden × BitVec 2) :=
  match s.codeTable with
  | none => .error (.refuse .loadCodeSegmentNotSupplied)
  | some t =>
    if sel = 0 then .error (.fault (.gp (some sel)))
    else
      match findCode s.ldtr.sel sel t with
      | none => .error (.fault (.gp (some sel)))
      | some d => checkCode sel s.cpl d

/-- The stack a TSS holds for a level; level 3 has none. -/
def tssStack (t : Tss) (level : BitVec 2) : Option StackImage :=
  if level = 0 then some t.ring0
  else if level = 1 then some t.ring1
  else if level = 2 then some t.ring2
  else none

/-- `StackSwitch(newCPL)` (60_exceptions.md R137): SS and ESP for that level from the current TSS; refused where that
TSS is not supplied (log entry 8). -/
def stackSwitch (s : State) (level : BitVec 2) : Except Stop (SegReg × Word) :=
  match (findTss s.tr.sel s.tssTable).bind (tssStack · level) with
  | none => .error (.refuse .stackSwitchNotSupplied)
  | some (.raises f) => .error (.fault f)
  | some (.stack ss esp) => .ok (ss, esp)

/-- The register image of the outgoing task; its EIP is the return offset (60_exceptions.md R137). -/
def saveContext (s : State) (ret : Word) : Context where
  eip    := ret
  eflags := s.eflags
  cpl    := s.cpl
  cs     := s.cs
  ss     := s.ss
  ds     := s.ds
  es     := s.es
  fs     := s.fs
  gs     := s.gs
  gpr    := s.gpr
  ldtr   := s.ldtr

/-- The registers loaded from a register image, with NT set (60_exceptions.md R137, R138). -/
def loadContext (s : State) (c : Context) : State :=
  { s with
    eip := c.eip, eflags := setFlag .nt c.eflags, cpl := c.cpl, cs := c.cs, ss := c.ss, ds := c.ds, es := c.es,
    fs := c.fs, gs := c.gs, gpr := c.gpr, ldtr := c.ldtr, csAtReset := false }

/-- The task state segments after a nested switch: the outgoing image saved; in the new one the back link and the busy
bit set (60_exceptions.md R137; 10_state.md R37). -/
def switchedTssTable (s : State) (sel : Half) (ret : Word) : List TssEntry :=
  updateTss sel (fun t => { t with backLink := s.tr.sel, busy := true })
    (updateTss s.tr.sel (fun t => { t with ctx := saveContext s ret }) s.tssTable)

/-- The machine in the new task. DESIGN CHOICE (log entry 9): for a task gate that names the current TSS, the image
loaded is the one that stood there before the outgoing registers are saved into it. -/
def enterTask (s : State) (sel : Half) (t : Tss) (ret : Word) : State :=
  { loadContext s t.ctx with
    tr := { sel := sel, base := t.base, limit := t.limit }, tssTable := switchedTssTable s sel ret }

/-- `TaskSwitch(selector, ret)` (60_exceptions.md R137, R138): refused where the new or the current TSS is not
supplied (log entry 9). -/
def taskSwitch (s : State) (sel : Half) (ret : Word) : Host.Outcome State Fault Refusal :=
  match findTss sel s.tssTable, findTss s.tr.sel s.tssTable with
  | some t, some _ =>
    match t.raises with
    | some f => .fault f
    | none => .next (enterTask s sel t ret)
  | _, _ => .refused .taskSwitchNotSupplied

end Sys2Proof.Machine
end

