-- ==== Sys2Proof/Machine/Ops.lean ====
section
/-! DEFINITION. The shared operations: pushing a frame on the stack, the IDT entry, taking an interrupt (`Deliver`,
60_exceptions.md R133) in each mode, the return frame popped (R144), the virtual-8086 IOPL test (40_int.md R116), and
the launch check (70_reset_and_hazards.md R181). -/

namespace Sys2Proof.Machine

/-- A stack as pushes see it: the segment's base, whether ESP or SP is the pointer, and ESP (20_memory.md R70). -/
structure Stack where
  base : Word
  big  : Bool
  esp  : Word
deriving DecidableEq, Repr

/-- ESP with `k` taken off the stack pointer: ESP modulo 2^32, or SP modulo 2^16 with the upper half unchanged
(20_memory.md R70). -/
def stackDown (big : Bool) (esp : Word) (k : Nat) : Word :=
  if big then esp - BitVec.ofNat 32 k
  else esp.extractLsb' 16 16 ++ (esp.setWidth 16 - BitVec.ofNat 16 k)

/-- The linear address of the top of the stack. -/
def stackTop (k : Stack) : Word :=
  k.base + (if k.big then k.esp else (k.esp.setWidth 16).setWidth 32)

/-- The stack after one push (20_memory.md R70). -/
def pushed (k : Stack) (v : Slot) : Stack := { k with esp := stackDown k.big k.esp (slotBytes v) }

/-- The stack after pushes, first to last. -/
def pushedAll (k : Stack) (vs : List Slot) : Stack := vs.foldl pushed k

/-- The bytes pushes store, first push first: each value at the stack's top after its own push (20_memory.md R70). -/
def pushCells : Stack → List Slot → List (Word × Byte)
  | _, [] => []
  | k, v :: vs => cellsAt (stackTop (pushed k v)) (slotData v) ++ pushCells (pushed k v) vs

/-- Whether a byte to be stored is one of the `len` bytes of the IDT entry at `ea` (20_memory.md R77). -/
def overlapsEntry (cells : List (Word × Byte)) (ea : Word) (len : Nat) : Bool :=
  cells.any (fun c => decide ((c.1 - ea).toNat < len))

/-- Where the IDT entry for vector `n` starts, for entries of `size` bytes, modulo 2^32 (20_memory.md R64). -/
def entryAddress (s : State) (size n : Nat) : Word := s.idtr.base + BitVec.ofNat 32 (size * n)

/-- The entry's last byte lies inside the table, as unbounded integers (20_memory.md R69). -/
def insideIdt (s : State) (size n : Nat) : Bool := decide (size * n + (size - 1) ≤ s.idtr.limit.toNat)

/-! ### Real-address mode (60_exceptions.md R134) -/

/-- A push would straddle offset 0xFFFF: SP is 1, 3 or 5 (20_memory.md R73). -/
def realFrameStraddles (s : State) : Bool := decide (sp s = 1 ∨ sp s = 3 ∨ sp s = 5)

/-- SS:SP (20_memory.md R70). -/
def realStack (s : State) : Stack := { base := segBase s .ss, big := false, esp := s.gpr.esp }

/-- The three 16-bit values of the frame: FLAGS, CS, IP of the next instruction (20_memory.md R71, R72). -/
def realFrame (s : State) (ret : Word) : List Slot :=
  [.half (flagsImage16 s.eflags), .half s.cs.sel, .half (ret.setWidth 16)]

/-- The bytes the frame stores. -/
def realFrameCells (s : State) (ret : Word) : List (Word × Byte) := pushCells (realStack s) (realFrame s ret)

/-- A segment register loaded in real-address mode: the hidden base becomes selector << 4 (60_exceptions.md R134
step 9). -/
def loadSegReal (r : SegReg) (sel : Half) : SegReg := { sel := sel, hid := { r.hid with base := selectorBase sel } }

/-- Steps 4 to 10 of `DeliverReal` (60_exceptions.md R134): the entry at `ea` holds the offset, then the selector
(20_memory.md R66); IF, TF and AC are cleared after the image is pushed. -/
def enterReal (s : State) (ea ret : Word) : State :=
  { s with
    eip := (read16 s ea).setWidth 32
    cs := loadSegReal s.cs (read16 s (ea + 2))
    csAtReset := false
    eflags := clearFlags realCleared s.eflags
    gpr := { s.gpr with esp := (pushedAll (realStack s) (realFrame s ret)).esp }
    mem := writeCells s (realFrameCells s ret) }

/-- `DeliverReal(n, ret)` (60_exceptions.md R134). -/
def deliverReal (s : State) (n : Nat) (ret : Word) : Host.Outcome State Fault Refusal :=
  if insideIdt s Config.ivtEntryBytes n = false then .fault (.gp none)
  else if realFrameStraddles s then .fault (.ss none)
  else if overlapsEntry (realFrameCells s ret) (entryAddress s Config.ivtEntryBytes n) Config.ivtEntryBytes then
    .refused .frameOverlapsIdtEntry
  else .next (enterReal s (entryAddress s Config.ivtEntryBytes n) ret)

/-! ### Protected and virtual-8086 mode (60_exceptions.md R135 to R137) -/

/-- The error code of a fault on the IDT entry for vector `n`: 8*n + 2 (60_exceptions.md R137). -/
def idtErrorCode (n : Nat) : Half := BitVec.ofNat 16 (8 * n + 2)

/-- Every OPEN parameter without a default of its own is at `refuse`: no code segment and no task is supplied
(00_scope.md R4, R5). -/
def parametersAtDefault (s : State) : Bool := s.codeTable.isNone && s.tssTable.isEmpty

/-- What a failed gate check ends in: its exception (60_exceptions.md R137, R140), but a refusal with the parameters at
their default, where a delivery that has read the IDT is refused (00_scope.md R4; 93_implementation_defined.md U6; log
entry 25). -/
def gateStop (s : State) (f : Fault) : Stop :=
  if parametersAtDefault s then .refuse .parametersAtDefault else .fault f

/-- Steps 1 to 5: the limit, the gate read and decoded, its kind, its DPL against CPL, and present
(60_exceptions.md R137). -/
def checkedGate (s : State) (n : Nat) : Except Stop Gate :=
  if insideIdt s Config.idtEntryBytes n = false then .error (.fault (.gp (some (idtErrorCode n))))
  else
    let g := decodeGate (read64 s (entryAddress s Config.idtEntryBytes n))
    if g.kind = .invalid then .error (gateStop s (.gp (some (idtErrorCode n))))
    else if g.dpl < s.cpl then .error (gateStop s (.gp (some (idtErrorCode n))))
    else if g.present = false then .error (gateStop s (.np (some (idtErrorCode n))))
    else .ok g

/-- Steps 7 and 8: the handler's code segment; out of virtual-8086 mode it must run at level 0
(60_exceptions.md R136, R137). -/
def handlerSegment (s : State) (g : Gate) : Except Stop (Hidden × BitVec 2) :=
  match loadCodeSegment s g.selector with
  | .error e => .error e
  | .ok (hid, level) =>
    if mode s = .v86 ∧ level ≠ 0 then .error (.fault (.gp (some g.selector))) else .ok (hid, level)

/-- Step 10, the stack the frame goes on: StackSwitch's when the level changes, else the current one
(60_exceptions.md R137). DESIGN CHOICE (log entry 24): on the new stack the pushes use the hidden base and the size
attribute of the SS that StackSwitch loaded, out of virtual-8086 mode too, although VM is cleared only after the pushes
(step 12) and R29 with 20_memory.md R63 would give selector << 4 and 16-bit offsets until then. -/
def handlerStack (s : State) (level : BitVec 2) : Except Stop (SegReg × Stack) :=
  if level < s.cpl then
    match stackSwitch s level with
    | .error e => .error e
    | .ok (ss, esp) => .ok (ss, { base := ss.hid.base, big := ss.hid.big, esp := esp })
  else .ok (s.ss, { base := segBase s .ss, big := s.ss.hid.big, esp := s.gpr.esp })

/-- A 16-bit register in a 32-bit slot: its upper half is a free value (20_memory.md R72, U11; log entry 10). -/
def wideSelector (s : State) (k : Nat) (sel : Half) : Slot := .word (Config.freeHalf (s.freeCount + k) ++ sel)

/-- A selector pushed through a gate of that width. -/
def selectorSlot (s : State) (wide : Bool) (k : Nat) (sel : Half) : Slot :=
  if wide then wideSelector s k sel else .half sel

/-- A 32-bit value pushed through a gate of that width: whole, or its low half (20_memory.md R72). -/
def valueSlot (wide : Bool) (v : Word) : Slot := if wide then .word v else .half (v.setWidth 16)

/-- `V86Frame`: GS, FS, DS, ES, each in a 32-bit slot (60_exceptions.md R137; log entry 18). -/
def v86Slots (s : State) : List Slot :=
  [wideSelector s 0 s.gs.sel, wideSelector s 1 s.fs.sel, wideSelector s 2 s.ds.sel, wideSelector s 3 s.es.sel]

/-- Whether the delivery pushes and clears the data segment registers: a level change out of virtual-8086 mode
(60_exceptions.md R137 step 10). -/
def usesV86Frame (s : State) (level : BitVec 2) : Bool := decide (level < s.cpl) && getFlag .vm s.eflags

/-- The frame (60_exceptions.md R137 steps 10 and 11): out of virtual-8086 mode the data segments, on a level change
the old SS and ESP, then EFLAGS, CS and the return offset. -/
def gateFrame (s : State) (wide : Bool) (level : BitVec 2) (ret : Word) : List Slot :=
  (if usesV86Frame s level then v86Slots s else []) ++
  (if level < s.cpl then [selectorSlot s wide 4 s.ss.sel, valueSlot wide s.gpr.esp] else []) ++
  [valueSlot wide s.eflags, selectorSlot s wide 5 s.cs.sel, valueSlot wide ret]

/-- Which flags a gate clears (60_exceptions.md R139). -/
def gateCleared : GateKind → List Flag
  | .interrupt => interruptGateCleared
  | .trap => trapGateCleared
  | .task => []
  | .invalid => []

/-- The selector with its low two bits replaced by the new CPL (60_exceptions.md R137 step 13). -/
def withRpl (sel : Half) (level : BitVec 2) : Half := sel.extractLsb' 2 14 ++ level

/-- The handler's offset: zero-extended from 16 bits through a 16-bit gate (60_exceptions.md R137 step 13). -/
def gateOffset (g : Gate) : Word := if g.wide then g.offset else (g.offset.setWidth 16).setWidth 32

/-- A data segment register loaded with 0 (60_exceptions.md R137, `V86Frame`; the hidden part: log entry 18). -/
def clearedSeg : SegReg := { sel := 0, hid := { base := 0, limit := 0, access := 0, big := false } }

/-- A data segment register after the delivery. -/
def dataSegAfter (s : State) (level : BitVec 2) (r : SegReg) : SegReg :=
  if usesV86Frame s level then clearedSeg else r

/-- Steps 9 to 13 of `DeliverProtected` (60_exceptions.md R137). -/
def enterGate (s : State) (g : Gate) (hid : Hidden) (level : BitVec 2) (ss : SegReg) (k : Stack) (ret : Word) : State :=
  { s with
    eip := gateOffset g
    cs := { sel := withRpl g.selector level, hid := hid }
    csAtReset := false
    cpl := level
    ss := ss
    ds := dataSegAfter s level s.ds
    es := dataSegAfter s level s.es
    fs := dataSegAfter s level s.fs
    gs := dataSegAfter s level s.gs
    eflags := clearFlags (gateCleared g.kind) s.eflags
    gpr := { s.gpr with esp := (pushedAll k (gateFrame s g.wide level ret)).esp }
    mem := writeCells s (pushCells k (gateFrame s g.wide level ret))
    freeCount := s.freeCount + 6 }

/-- Steps 7 to 13 of `DeliverProtected`, an interrupt or trap gate (60_exceptions.md R137); the overlap refusal is
20_memory.md R77 (log entry 11). -/
def deliverThroughGate (s : State) (n : Nat) (g : Gate) (ret : Word) : Host.Outcome State Fault Refusal :=
  match handlerSegment s g with
  | .error e => stopOutcome e
  | .ok (hid, level) =>
    match handlerStack s level with
    | .error e => stopOutcome e
    | .ok (ss, k) =>
      if overlapsEntry (pushCells k (gateFrame s g.wide level ret)) (entryAddress s Config.idtEntryBytes n)
          Config.idtEntryBytes then .refused .frameOverlapsIdtEntry
      else .next (enterGate s g hid level ss k ret)

/-- `DeliverProtected(n, kind, ret)` (60_exceptions.md R137). `kind` changes nothing once the IOPL test is past. -/
def deliverProtected (s : State) (n : Nat) (_kind : Kind) (ret : Word) : Host.Outcome State Fault Refusal :=
  match checkedGate s n with
  | .error e => stopOutcome e
  | .ok g => if g.kind = .task then taskSwitch s g.selector ret else deliverThroughGate s n g ret

/-! ### Taking an interrupt, and the return frame -/

/-- `Deliver(n, kind, ret)` (60_exceptions.md R133): the one operation that takes an interrupt. -/
def deliver (s : State) (n : Nat) (kind : Kind) (ret : Word) : Host.Outcome State Fault Refusal :=
  match mode s with
  | .real => deliverReal s n ret
  | .prot => deliverProtected s n kind ret
  | .v86 => deliverProtected s n kind ret

/-- ESP with `k` added to SP, modulo 2^16; the upper half unchanged (a pop in real-address mode). -/
def stackUp (esp : Word) (k : Nat) : Word := esp.extractLsb' 16 16 ++ (esp.setWidth 16 + BitVec.ofNat 16 k)

/-- The real-address-mode frame popped (60_exceptions.md R144, for information): IP, then CS, then FLAGS. IRET is in no
table of the spec, so no instruction calls this: it says what undoes a delivery. -/
def popFrameReal (s : State) : State :=
  { s with
    eip := (read16 s (lin s .ss s.gpr.esp)).setWidth 32
    cs := loadSegReal s.cs (read16 s (lin s .ss (stackUp s.gpr.esp 2)))
    csAtReset := false
    eflags := s.eflags.extractLsb' 16 16 ++ read16 s (lin s .ss (stackUp s.gpr.esp 4))
    gpr := { s.gpr with esp := stackUp s.gpr.esp 6 } }

/-! ### The virtual-8086 IOPL test, and the launch check -/

/-- `V86Check(kind)` (40_int.md R116): `none` where the instruction goes on. -/
def v86Check (s : State) (kind : Kind) : Option Stop :=
  if mode s = .v86 ∧ kind = .cd then
    if s.cr4VME then some (.refuse .vmeRedirection)
    else if iopl s.eflags < 3 then some (.fault (.gp (some Config.gpV86ErrorCode)))
    else none
  else if mode s = .v86 ∧ kind = .ce ∧ s.intoIoplSensitive = true then
    if iopl s.eflags < 3 then some (.fault (.gp (some Config.gpV86ErrorCode))) else none
  else none

/-- The reserved bits of EFLAGS, and VM only with CR0.PE (10_state.md R28, R29). -/
def eflagsLaunchOk (s : State) : Bool :=
  reservedFlagsOk s.eflags && (s.cr0PE || !getFlag .vm s.eflags)

/-- CPL 0 in real-address mode and 3 in virtual-8086 mode, and EIP[31:16] = 0 in both (70_reset_and_hazards.md R181). -/
def modeLaunchOk (s : State) : Bool :=
  match mode s with
  | .real => decide (s.cpl = 0 ∧ s.eip.extractLsb' 16 16 = 0)
  | .v86 => decide (s.cpl = 3 ∧ s.eip.extractLsb' 16 16 = 0)
  | .prot => true

/-- CS has been loaded since reset, in real-address mode: the state after reset, whose CS base is not selector << 4, is
no launch state (70_reset_and_hazards.md R181). -/
def csLaunchOk (s : State) : Bool := !(s.csAtReset && decide (mode s = .real))

/-- A state the machine can be launched in (70_reset_and_hazards.md R181; 10_state.md R28, R29; log entry 4). -/
def launchOk (s : State) : Bool := eflagsLaunchOk s && modeLaunchOk s && csLaunchOk s

/-- CS as a launch has it: in real-address mode not loaded since reset, its own selector is loaded. -/
def launchedCs (s : State) : SegReg :=
  if s.csAtReset = true ∧ mode s = .real then loadSegReal s.cs s.cs.sel else s.cs

/-- The launch state made of a state: CS loaded, so that its base is selector << 4 in real-address mode
(70_reset_and_hazards.md R181; log entry 23). -/
def launched (s : State) : State :=
  { s with cs := launchedCs s, csAtReset := s.csAtReset && decide (mode s ≠ .real) }

/-- The error code of a fetch that straddles the end of the offset range: none in real-address mode, else 0
(30_encoding.md R101). -/
def fetchFaultCode (s : State) : Option Half := if mode s = .real then none else some 0

/-- The vector number of an exception, a label only (60_exceptions.md R131, R137, R140); the spec gives none for a page
fault. -/
def faultVector : Fault → Option Nat
  | .gp _ => some 13
  | .ss _ => some 12
  | .np _ => some 11
  | .ts _ => some 10
  | .pf _ => none

end Sys2Proof.Machine
end

