-- ==== Sys2Proof/Machine/Interrupt.lean ====
section
/-! DEFINITION. The meanings of the three instructions (40_int.md R111 to R113), each over `deliver`. -/

namespace Sys2Proof.Machine

/-- INT 3 (40_int.md R111): vector 3, kind CC, and no virtual-8086 IOPL test (R117). -/
def execInt3 (s : State) : Host.Outcome State Fault Refusal :=
  deliver s 3 .cc (nextOffset s 1)

/-- INT imm8 (40_int.md R112): the IOPL test, then the vector the immediate names. -/
def execIntImm8 (ib : Byte) (s : State) : Host.Outcome State Fault Refusal :=
  match v86Check s .cd with
  | some stop => stopOutcome stop
  | none => deliver s (immVector ib) .cd (nextOffset s 2)

/-- INTO (40_int.md R113): with OF = 0 only EIP advances; else vector 4. -/
def execInto (s : State) : Host.Outcome State Fault Refusal :=
  if getFlag .ofl s.eflags = false then .next { s with eip := nextOffset s 1 }
  else
    match v86Check s .ce with
    | some stop => stopOutcome stop
    | none => deliver s 4 .ce (nextOffset s 1)

end Sys2Proof.Machine
end

