-- ==== Sys2Proof/Machine/Dispatch.lean ====
section
/-! DEFINITION. One arm for each instruction. -/

namespace Sys2Proof.Machine

def exec (i : Instr) (s : State) : Host.Outcome State Fault Refusal :=
  match i with
  | .int3 => Sys2Proof.Machine.execInt3 s
  | .intImm8 ib => Sys2Proof.Machine.execIntImm8 ib s
  | .into => Sys2Proof.Machine.execInto s

end Sys2Proof.Machine
end

