-- ==== Sys2Proof/Machine/Step.lean ====
section
/-! DEFINITION. One step of the machine (00_scope.md R8): fetch and decode at CS:EIP, then the instruction's meaning. -/

namespace Sys2Proof.Machine

/-- One step. A state that is no launch state is refused (70_reset_and_hazards.md R181; log entry 4); an opcode out of
scope is refused (30_encoding.md R96); an instruction that straddles the end of the offset range faults (R101). -/
def step (s : State) : Host.Outcome State Fault Refusal :=
  if launchOk s = false then .refused .notALaunchState
  else
    match decode (fetchBytes s) with
    | .ok (i, _) => exec i s
    | .error (.opcode b) => .refused (.opcodeNotInScope b)
    | .error .truncated => .fault (.gp (fetchFaultCode s))

/-- The state launched with an instruction, numbered as spec/opcode_table.json numbers it, stored where `step` fetches
next (log entry 23). -/
def State.withFetchWord (s : State) (nbits w : Nat) : State :=
  { launched s with
    mem := writeCells (launched s) ((fetchAddresses (launched s)).zip (tableBytes nbits w)) }

end Sys2Proof.Machine
end

