-- ==== Sys2Proof/Safety.lean ====
section
/-! DEFINITION. The terms claims are stated in: when an instruction reaches its delivery, what must have been set up
for it (70_reset_and_hazards.md R183), the invariant of the machine, and runs that stop nowhere. -/

namespace Sys2Proof.Machine

/-- The instruction reaches `Deliver(n, kind, ret)`: INT 3 always (40_int.md R111, R117), INT imm8 unless the
virtual-8086 test stops it (R112, R116), INTO with OF = 1 unless it makes that test and fails it (R113, R118). -/
def Delivers (i : Instr) (s : State) (n : Nat) (ret : Word) : Prop :=
  match i with
  | .int3 => n = 3 ∧ ret = nextOffset s 1
  | .intImm8 ib => n = ib.toNat ∧ ret = nextOffset s 2 ∧ (mode s = .v86 → s.cr4VME = false ∧ iopl s.eflags = 3)
  | .into =>
    n = 4 ∧ ret = nextOffset s 1 ∧ getFlag .ofl s.eflags = true ∧
      (mode s = .v86 → s.intoIoplSensitive = true → iopl s.eflags = 3)

/-- The linear address of the byte `k` below SP, offsets modulo 2^16 (60_exceptions.md R134 step 3). -/
def frameByte (s : State) (k : Nat) : Word := lin s .ss ((sp s - BitVec.ofNat 16 k).setWidth 32)

/-- A byte of the 6-byte real-address-mode frame is a byte of the IDT entry for vector `n` (20_memory.md R77). -/
def RealOverlap (s : State) (n : Nat) : Prop :=
  ∃ k ∈ List.range' 1 6, ∃ j ∈ List.range 4, frameByte s k = s.idtr.base + BitVec.ofNat 32 (4 * n + j)

/-- What must be set up in real-address mode for vector `n` (70_reset_and_hazards.md R183, items 1 and 3). -/
def RealBoot (s : State) (n : Nat) : Prop :=
  4 * n + 3 ≤ s.idtr.limit.toNat ∧ ¬(sp s = 1 ∨ sp s = 3 ∨ sp s = 5) ∧ ¬RealOverlap s n

/-- The protected-mode IDT entry for vector `n`, decoded (20_memory.md R64, R68). -/
def idtGate (s : State) (n : Nat) : Gate := decodeGate (read64 s (s.idtr.base + BitVec.ofNat 32 (8 * n)))

/-- The gate checks pass: inside the table, a gate, DPL not below CPL, present (60_exceptions.md R137, steps 1 to 5). -/
def GateAdmits (s : State) (n : Nat) : Prop :=
  8 * n + 7 ≤ s.idtr.limit.toNat ∧ (idtGate s n).kind ≠ .invalid ∧ s.cpl ≤ (idtGate s n).dpl ∧
    (idtGate s n).present = true

/-- A delivery through an interrupt or trap gate has all it needs: the gate checks pass, the handler's segment is
`hid` at level `level`, the frame goes on the stack `k` of SS `ss`, and no byte of it is one of the entry
(60_exceptions.md R137; 20_memory.md R77). -/
structure GateReady (s : State) (n : Nat) (ret : Word) (hid : Hidden) (level : BitVec 2) (ss : SegReg) (k : Stack) :
    Prop where
  admits  : GateAdmits s n
  notTask : (idtGate s n).kind ≠ .task
  segment : handlerSegment s (idtGate s n) = .ok (hid, level)
  stack   : handlerStack s level = .ok (ss, k)
  apart   : ∀ c ∈ pushCells k (gateFrame s (idtGate s n).wide level ret), ∀ j < 8,
    c.1 ≠ s.idtr.base + BitVec.ofNat 32 (8 * n + j)

/-- The linear address of the value whose lowest byte lies `depth` bytes below the stack's pointer. -/
def slotAt (k : Stack) (depth : Nat) : Word := stackTop { k with esp := stackDown k.big k.esp depth }

/-- A register image of a task is one the machine can run on: the reserved bits of EFLAGS as 10_state.md R28 says, and
with VM set CPL 3 and EIP[31:16] = 0 (70_reset_and_hazards.md R181). -/
def contextOk (c : Context) : Bool :=
  reservedFlagsOk c.eflags &&
    (!getFlag .vm c.eflags || decide (c.cpl = 3 ∧ c.eip.extractLsb' 16 16 = 0))

/-- The invariant of the machine: EFLAGS, CPL and EIP as a launch state has them (70_reset_and_hazards.md R181), memory in
its canonical form, and task images the machine can run on. The state after reset meets it too, although it is no launch
state. -/
def State.Inv (s : State) : Prop :=
  eflagsLaunchOk s = true ∧ modeLaunchOk s = true ∧ s.mem.wf = true ∧ ∀ e ∈ s.tssTable, contextOk e.tss.ctx = true

/-- `k` steps from the state stop nowhere (70_reset_and_hazards.md R182: a fault or a refusal is no good end). -/
def RunsSafely (k : Nat) (s : State) : Prop := ∃ t, Sys2Proof.core.run k s = .next t

end Sys2Proof.Machine
end

