-- ==== Sys2Proof/Certificates/Slice0/Obligations.lean ====
section
/-! DEFINITION. The statements for the provers, each from a rule of the spec. -/

open Sys2Proof Sys2Proof.Machine

/-! ### Encoding (30_encoding.md) -/

/-- Words written out from 30_encoding.md R91 and 95_test_vectors.md E1 to E8: what each decodes to.
The bit patterns are the spec's derivation (R91); that other opcodes are refused is its own choice (D16). -/
def Obligations.SpecWordsDecode : Prop :=
  decode [0xCC] = .ok (.int3, []) ∧ decode [0xCD, 0x00] = .ok (.intImm8 0, []) ∧
  decode [0xCD, 0x03] = .ok (.intImm8 3, []) ∧ decode [0xCD, 0x80] = .ok (.intImm8 128, []) ∧
  decode [0xCD, 0xFF] = .ok (.intImm8 255, []) ∧ immVector 0xFF = 255 ∧ decode [0xCE] = .ok (.into, []) ∧
  decode [0xCF] = .error (.opcode 0xCF) ∧ decode [0xCB] = .error (.opcode 0xCB) ∧
  decode [0x66, 0xCD, 0x21] = .error (.opcode 0x66) ∧ decode [0xF0, 0xCC] = .error (.opcode 0xF0)

/-- 30_encoding.md R93 and R92: the opcode map. Byte 0 alone decides; INT 3 and INTO take one byte and have vectors 3 and
4; INT imm8 takes two, and its vector is the second byte taken as an unsigned integer 0 to 255, every value legal. -/
def Obligations.OpcodeMap : Prop :=
  ∀ (ib : Byte) (rest : List Byte),
    decode (0xCC :: rest) = .ok (.int3, rest) ∧ decode (0xCE :: rest) = .ok (.into, rest) ∧
    decode (0xCD :: ib :: rest) = .ok (.intImm8 ib, rest) ∧
    encode .int3 = [0xCC] ∧ encode .into = [0xCE] ∧ encode (.intImm8 ib) = [0xCD, ib] ∧
    instrVector .int3 = 3 ∧ instrVector .into = 4 ∧ instrVector (.intImm8 ib) = ib.toNat ∧
    immVector ib = ib.toNat ∧ immVector ib ≤ 255 ∧ (Instr.intImm8 ib).wellFormed = true

/-- Decode and encode agree both ways (30_encoding.md R90 to R93): bytes decode to an instruction and a rest exactly
when they are its encoding followed by that rest.
The decoding procedure is the spec's derivation (R98). -/
def Obligations.DecodeExactlyInvertsEncode : Prop :=
  ∀ (i : Instr) (bs rest : List Byte), i.wellFormed = true →
    (decode bs = .ok (i, rest) ↔ bs = encode i ++ rest)

/-- 30_encoding.md R96: any other byte 0 is refused by name, whatever follows it.
The spec's own choice (D16). -/
def Obligations.OtherOpcodesAreRefused : Prop :=
  ∀ (s : State) (b : Byte) (bs : List Byte), b ≠ 0xCC → b ≠ 0xCD → b ≠ 0xCE →
    decode (b :: bs) = .error (.opcode b) ∧
    (launchOk s = true → readByte s (lin s .cs s.eip) = b → step s = .refused (.opcodeNotInScope b))

/-! ### Fetch and step -/

/-- A step runs the decoded instruction (00_scope.md R8). The meanings advance EIP themselves, so the step adds
nothing around `exec` but the launch check.
The spec's own choice (D14); the launch check is the model's (log entry 4). -/
def Obligations.StepRunsDecodedInstruction : Prop :=
  ∀ (s : State) (i : Instr) (rest : List Byte), launchOk s = true → i.wellFormed = true →
    decode (fetchBytes s) = .ok (i, rest) → step s = exec i s

/-- 30_encoding.md R98: byte 0 at CS:EIP decides; `ib` is the byte at EIP + 1; anything else is refused.
The spec's derivation (R98) and own choice (D16). -/
def Obligations.FetchDecodesAtCsEip : Prop :=
  ∀ s : State, launchOk s = true →
    (readByte s (lin s .cs s.eip) = 0xCC → step s = exec .int3 s) ∧
    (readByte s (lin s .cs s.eip) = 0xCE → step s = exec .into s) ∧
    (readByte s (lin s .cs s.eip) = 0xCD → (mode s = .prot → s.eip ≠ 0xFFFFFFFF) → (mode s ≠ .prot → ip s ≠ 0xFFFF) →
      step s = exec (.intImm8 (readByte s (lin s .cs (s.eip + 1)))) s) ∧
    (∀ b : Byte, readByte s (lin s .cs s.eip) = b → b ≠ 0xCC → b ≠ 0xCD → b ≠ 0xCE →
      step s = .refused (.opcodeNotInScope b))

/-- 30_encoding.md R101: `CD ib` at the end of the offset range is #GP, with no error code in real-address mode and
error code 0 in the others.
The spec's own choice (D17). -/
def Obligations.StraddlingFetchFaults : Prop :=
  ∀ s : State, launchOk s = true → readByte s (lin s .cs s.eip) = 0xCD →
    (mode s = .real → ip s = 0xFFFF → step s = .fault (.gp none)) ∧
    (mode s = .v86 → ip s = 0xFFFF → step s = .fault (.gp (some 0))) ∧
    (mode s = .prot → s.eip = 0xFFFFFFFF → step s = .fault (.gp (some 0)))

/-- 10_state.md R28, R29 and 70_reset_and_hazards.md R181: a step refuses exactly the states that are no launch state.
That a step makes the check is the model's choice (log entry 4).
The conditions are the spec's own choice (D20, D23, D26). -/
def Obligations.OnlyLaunchStatesStep : Prop :=
  ∀ s : State, step s = .refused .notALaunchState ↔
    ¬(s.eflags.getLsbD 1 = true ∧ (∀ j < 32, (j = 3 ∨ j = 5 ∨ j = 15 ∨ 22 ≤ j) → s.eflags.getLsbD j = false) ∧
      (s.eflags.getLsbD 17 = true → s.cr0PE = true) ∧ (s.cr0PE = false → s.cpl = 0) ∧
      (s.cr0PE = true → s.eflags.getLsbD 17 = true → s.cpl = 3) ∧
      (s.cr0PE = false ∨ s.eflags.getLsbD 17 = true → s.eip.toNat < 65536) ∧
      (s.cr0PE = false → s.csAtReset = false))

/-- 30_encoding.md R99: CC written over byte 0 of whatever stands at CS:EIP makes the step an INT 3, and the bytes after
it count for nothing. -/
def Obligations.BreakpointOverFirstByte : Prop :=
  ∀ s : State, launchOk s = true →
    step { s with mem := s.mem.write (lin s .cs s.eip).toNat 0xCC } =
      exec .int3 { s with mem := s.mem.write (lin s .cs s.eip).toNat 0xCC }

/-- 20_memory.md R76, R79: every read and every fetch sees the latest store to that byte. That a fetch needs no fence is
a decision of the spec (D15, log entry 15).
The spec's own choice (D14, D15). -/
def Obligations.FetchSeesEarlierStores : Prop :=
  ∀ (s : State) (a c : Word) (b : Byte),
    readByte { s with mem := s.mem.write a.toNat b } c = (if c = a then b else readByte s c) ∧
    fetchBytes { s with mem := s.mem.write a.toNat b } =
      (fetchAddresses s).map (fun d => if d = a then b else readByte s d)

/-! ### Memory, addresses, the stack (20_memory.md) -/

/-- 20_memory.md R61: little-endian, for values read, for values stored and for the instruction stream.
The spec's own choice (D2). -/
def Obligations.LittleEndianValues : Prop :=
  ∀ (s : State) (a : Word) (v : Half) (w : Word),
    read16 s a = readByte s (a + 1) ++ readByte s a ∧
    read32 s a = readByte s (a + 3) ++ readByte s (a + 2) ++ readByte s (a + 1) ++ readByte s a ∧
    read64 s a = read32 s (a + 4) ++ read32 s a ∧
    (∀ j < 2, readByte { s with mem := writeCells s (cellsAt a (bytes16 v)) } (a + BitVec.ofNat 32 j) =
      v.extractLsb' (8 * j) 8) ∧
    (∀ j < 4, readByte { s with mem := writeCells s (cellsAt a (bytes32 w)) } (a + BitVec.ofNat 32 j) =
      w.extractLsb' (8 * j) 8) ∧
    ((mode s = .prot → s.eip ≠ 0xFFFFFFFF) → (mode s ≠ .prot → ip s ≠ 0xFFFF) →
      fetchBytes s = [readByte s (lin s .cs s.eip), readByte s (lin s .cs (s.eip + 1))])

/-- 20_memory.md R63: selector * 16 plus the low 16 bits of the offset, never past 0x10FFEF and not wrapped at 2^20; the
hidden base plus the offset in protected mode. CS in real-address mode that has not been loaded since reset is the
exception of 10_state.md R36.
The spec's own choice (D5). -/
def Obligations.LinearAddressRule : Prop :=
  ∀ (s : State) (r : SegName) (off : Word),
    (mode s = .v86 ∨ mode s = .real ∧ ¬(r = .cs ∧ s.csAtReset = true) →
      (lin s r off).toNat = (segReg s r).sel.toNat * 16 + off.toNat % 65536 ∧ (lin s r off).toNat ≤ 0x10FFEF) ∧
    (mode s = .prot → lin s r off = (segReg s r).hid.base + off) ∧
    (mode s = .real → r = .cs → s.csAtReset = true →
      lin s r off = s.cs.hid.base + BitVec.ofNat 32 (off.toNat % 65536))

/-- 40_int.md R115, 10_state.md R22: the offset of the next instruction, modulo 2^16 or 2^32.
The spec's own choice (D9, D17). -/
def Obligations.NextOffsetWraps : Prop :=
  ∀ (s : State) (len : Nat),
    (mode s ≠ .prot → (nextOffset s len).toNat = (s.eip.toNat + len) % 65536) ∧
    (mode s = .prot → (nextOffset s len).toNat = (s.eip.toNat + len) % 4294967296)

/-- 20_memory.md R70: a push first takes 2 or 4 off the pointer (SP modulo 2^16 with ESP[31:16] unchanged, or ESP modulo
2^32), then stores the value at the new top.
The spec's own choice (D4). -/
def Obligations.PushRule : Prop :=
  ∀ (k : Stack) (v : Half) (w : Word),
    (k.big = false →
      ((pushed k (.half v)).esp.toNat % 65536 = (k.esp.toNat % 65536 + 65534) % 65536 ∧
        (pushed k (.word w)).esp.toNat % 65536 = (k.esp.toNat % 65536 + 65532) % 65536) ∧
      (pushed k (.half v)).esp.toNat / 65536 = k.esp.toNat / 65536 ∧
      (pushed k (.word w)).esp.toNat / 65536 = k.esp.toNat / 65536 ∧
      pushCells k [.half v] =
        cellsAt (k.base + BitVec.ofNat 32 ((pushed k (.half v)).esp.toNat % 65536)) (bytes16 v) ∧
      pushCells k [.word w] =
        cellsAt (k.base + BitVec.ofNat 32 ((pushed k (.word w)).esp.toNat % 65536)) (bytes32 w)) ∧
    (k.big = true →
      (pushed k (.half v)).esp = k.esp - 2 ∧ (pushed k (.word w)).esp = k.esp - 4 ∧
      pushCells k [.half v] = cellsAt (k.base + (k.esp - 2)) (bytes16 v) ∧
      pushCells k [.word w] = cellsAt (k.base + (k.esp - 4)) (bytes32 w))

/-- 20_memory.md R68: the 8-byte gate descriptor, field by field from the most significant bits down.
The spec's general knowledge (GK8, D19; log entry 5). -/
def Obligations.GateDescriptorLayout : Prop :=
  ∀ (offHi offLo sel : Half) (p sBit : Bool) (dpl : BitVec 2) (type : BitVec 4) (b4 : Byte),
    decodeGate (offHi ++ BitVec.ofBool p ++ dpl ++ BitVec.ofBool sBit ++ type ++ b4 ++ sel ++ offLo) =
      { kind := if sBit = true then .invalid
          else if type = 0x5 then .task
          else if type = 0x6 ∨ type = 0xE then .interrupt
          else if type = 0x7 ∨ type = 0xF then .trap else .invalid
        wide := decide (type = 0xE ∨ type = 0xF)
        selector := sel, offset := offHi ++ offLo, dpl := dpl, present := p }

/-- 20_memory.md R69: an entry that does not end inside the table is #GP, with error code 8*n + 2 outside real-address
mode.
The spec's own choice (D10). -/
def Obligations.IdtLimitFaults : Prop :=
  ∀ (i : Instr) (s : State) (n : Nat) (ret : Word), Delivers i s n ret →
    (mode s = .real → s.idtr.limit.toNat < 4 * n + 3 → exec i s = .fault (.gp none)) ∧
    (mode s ≠ .real → s.idtr.limit.toNat < 8 * n + 7 →
      exec i s = .fault (.gp (some (BitVec.ofNat 16 (8 * n + 2)))))

/-- 20_memory.md R73: SP wraps modulo 2^16, and the delivery is #SS exactly when SP is 1, 3 or 5.
The spec's own choice (D11). -/
def Obligations.RealStackWrapAndStraddle : Prop :=
  ∀ (i : Instr) (s : State) (n : Nat) (ret : Word), Delivers i s n ret → mode s = .real →
    4 * n + 3 ≤ s.idtr.limit.toNat →
    (exec i s = .fault (.ss none) ↔ sp s = 1 ∨ sp s = 3 ∨ sp s = 5) ∧
    (∀ (v : Half) (vs : List Slot), sp s = 0 →
      pushCells (realStack s) (.half v :: vs) =
        cellsAt (lin s .ss 0xFFFE) (bytes16 v) ++ pushCells (pushed (realStack s) (.half v)) vs) ∧
    (sp s = 4 → (realFrameCells s ret).map (·.1) =
      [lin s .ss 2, lin s .ss 2 + 1, lin s .ss 0, lin s .ss 0 + 1, lin s .ss 0xFFFE, lin s .ss 0xFFFE + 1])

/-- 20_memory.md R77: a frame byte that is a byte of the IDT entry refuses the delivery, in every mode (that the rule
holds outside real-address mode too is log entry 11).
The spec's own choice (D12). -/
def Obligations.FrameOverlapIsRefused : Prop :=
  ∀ (i : Instr) (s : State) (n : Nat) (ret : Word), Delivers i s n ret →
    (mode s = .real → 4 * n + 3 ≤ s.idtr.limit.toNat → ¬(sp s = 1 ∨ sp s = 3 ∨ sp s = 5) → RealOverlap s n →
      exec i s = .refused .frameOverlapsIdtEntry) ∧
    (∀ hid level ss k, mode s ≠ .real → GateAdmits s n → (idtGate s n).kind ≠ .task →
      handlerSegment s (idtGate s n) = .ok (hid, level) → handlerStack s level = .ok (ss, k) →
      (∃ c ∈ pushCells k (gateFrame s (idtGate s n).wide level ret), ∃ j < 8,
        c.1 = s.idtr.base + BitVec.ofNat 32 (8 * n + j)) →
      exec i s = .refused .frameOverlapsIdtEntry)

/-! ### Real-address-mode delivery (60_exceptions.md R134) -/

/-- The registers after a real-address-mode delivery of INT 3, INT imm8 or INTO with OF = 1: control goes to the entry's
far address, IF, TF and AC are cleared and no other flag changes, SP is 6 lower (60_exceptions.md R134, R139).
Widths, field order and flags are the spec's own choice (D6, D7, D27, D28). -/
def Obligations.RealDeliveryRegisters : Prop :=
  ∀ (i : Instr) (s : State) (n : Nat) (ret : Word), Delivers i s n ret → mode s = .real → RealBoot s n →
    ∃ t, exec i s = .next t ∧
      t.eip = (read16 s (s.idtr.base + BitVec.ofNat 32 (4 * n))).setWidth 32 ∧
      t.cs.sel = read16 s (s.idtr.base + BitVec.ofNat 32 (4 * n) + 2) ∧
      t.cs.hid.base = t.cs.sel.setWidth 32 <<< 4 ∧ t.csAtReset = false ∧
      (∀ j, t.eflags.getLsbD j = (s.eflags.getLsbD j && decide (j ≠ 8 ∧ j ≠ 9 ∧ j ≠ 18))) ∧
      sp t = sp s - 6 ∧ t.gpr.esp.extractLsb' 16 16 = s.gpr.esp.extractLsb' 16 16 ∧ t.cpl = s.cpl

/-- 20_memory.md R66: the bytes of a real-address-mode entry, the instruction pointer in bytes 0 and 1, the selector in
bytes 2 and 3, and where they send control.
The spec's own choice (D6). -/
def Obligations.RealVectorLayout : Prop :=
  ∀ (i : Instr) (s : State) (n : Nat) (ret : Word), Delivers i s n ret → mode s = .real → RealBoot s n →
    ∃ t, exec i s = .next t ∧
      t.eip = (readByte s (s.idtr.base + BitVec.ofNat 32 (4 * n + 1)) ++
        readByte s (s.idtr.base + BitVec.ofNat 32 (4 * n))).setWidth 32 ∧
      t.cs.sel = readByte s (s.idtr.base + BitVec.ofNat 32 (4 * n + 3)) ++
        readByte s (s.idtr.base + BitVec.ofNat 32 (4 * n + 2))

/-- The frame of a real-address-mode delivery: FLAGS as it was, CS, and IP of the next instruction, at SS offsets SP - 2,
SP - 4 and SP - 6 modulo 2^16 (20_memory.md R71, R72).
The spec's own choice (D4, D9). -/
def Obligations.RealDeliveryStack : Prop :=
  ∀ (i : Instr) (s : State) (n : Nat) (ret : Word), Delivers i s n ret → mode s = .real → RealBoot s n →
    ∃ t, exec i s = .next t ∧
      read16 t (lin s .ss ((sp s - 2).setWidth 32)) = s.eflags.extractLsb' 0 16 ∧
      read16 t (lin s .ss ((sp s - 4).setWidth 32)) = s.cs.sel ∧
      read16 t (lin s .ss ((sp s - 6).setWidth 32)) = ret.extractLsb' 0 16

/-- What a real-address-mode delivery leaves unchanged (10_state.md R37, 60_exceptions.md R134): everything but EIP, CS,
EFLAGS, SP and the six bytes of the frame.
The footprint is the spec's derivation (R37) over its own choices (D7, D28). -/
def Obligations.RealDeliveryFrame : Prop :=
  ∀ (i : Instr) (s : State) (n : Nat) (ret : Word) (t : State), Delivers i s n ret → mode s = .real →
    exec i s = .next t →
      t = { s with
        eip := t.eip, cs := t.cs, csAtReset := t.csAtReset, eflags := t.eflags,
        gpr := { s.gpr with esp := t.gpr.esp }, mem := t.mem } ∧
      t.cs.hid.limit = s.cs.hid.limit ∧ t.cs.hid.access = s.cs.hid.access ∧ t.cs.hid.big = s.cs.hid.big ∧
      t.gpr.esp.extractLsb' 16 16 = s.gpr.esp.extractLsb' 16 16 ∧
      (∀ j, j ≠ 8 → j ≠ 9 → j ≠ 18 → t.eflags.getLsbD j = s.eflags.getLsbD j) ∧
      ∀ a : Word, (∀ k, 1 ≤ k → k ≤ 6 → a ≠ frameByte s k) → readByte t a = readByte s a

/-- 70_reset_and_hazards.md R183: in real-address mode the delivery answers a next state exactly when the entry lies
inside the table, the frame fits, and the two do not overlap.
The spec's derivation over its own choices (D10, D11, D12). -/
def Obligations.RealCompletesExactlyWhenSetUp : Prop :=
  ∀ (i : Instr) (s : State) (n : Nat) (ret : Word), Delivers i s n ret → mode s = .real →
    ((∃ t, exec i s = .next t) ↔ RealBoot s n)

/-- 60_exceptions.md R144: popping IP, CS and FLAGS undoes a real-address-mode delivery: the next instruction's address,
IF and TF with the rest of FLAGS, and SP are back, and nothing else of the registers has moved. IRET itself is no
instruction of the spec.
The spec's derivation, given for information (R144); no instruction pops the frame. -/
def Obligations.ReturnFrameUndoesRealDelivery : Prop :=
  ∀ (i : Instr) (s : State) (n : Nat) (ret : Word), Delivers i s n ret → mode s = .real → RealBoot s n →
    ∃ t, exec i s = .next t ∧
      (popFrameReal t).eip = ret ∧ (popFrameReal t).cs.sel = s.cs.sel ∧
      (popFrameReal t).eflags.extractLsb' 0 16 = s.eflags.extractLsb' 0 16 ∧
      (popFrameReal t).gpr = s.gpr ∧ (popFrameReal t).ss = s.ss

/-- 60_exceptions.md R145: no rule tests IF. Two states that differ in IF alone end alike: the same fault, the same
refusal, or next states that agree on the registers and on every flag but IF.
The spec's derivation. -/
def Obligations.DeliveryDoesNotTestInterruptFlag : Prop :=
  ∀ (i : Instr) (s : State),
    match exec i { s with eflags := setFlag .ifl s.eflags }, exec i { s with eflags := clearFlag .ifl s.eflags } with
    | .next a, .next b =>
      a.eip = b.eip ∧ a.cs = b.cs ∧ a.ss = b.ss ∧ a.ds = b.ds ∧ a.es = b.es ∧ a.fs = b.fs ∧ a.gs = b.gs ∧
        a.gpr = b.gpr ∧ a.cpl = b.cpl ∧ ∀ j, j ≠ 9 → a.eflags.getLsbD j = b.eflags.getLsbD j
    | .fault f, .fault g => f = g
    | .refused f, .refused g => f = g
    | _, _ => False

/-! ### INTO, and the virtual-8086 tests (40_int.md) -/

/-- 40_int.md R113: INTO with OF = 0 completes, in every mode; EIP advances by 1 as NextOffset says and nothing else
changes.
The spec's own choice (D8). -/
def Obligations.IntoWithoutOverflowOnlyAdvances : Prop :=
  ∀ s : State, s.eflags.getLsbD 11 = false →
    ∃ t, exec .into s = .next t ∧ t = { s with eip := t.eip } ∧
      t.eip.toNat = (s.eip.toNat + 1) % (if mode s = .prot then 4294967296 else 65536)

/-- 40_int.md R116: the virtual-8086 IOPL test, before anything else the instruction does; INT 3 never makes it, INTO
only with OF = 1 and `into_iopl_sensitive`.
Error code, VME and INTO are the spec's own choice (D20, D21, D22). -/
def Obligations.V86IoplTest : Prop :=
  ∀ (s : State) (ib : Byte), mode s = .v86 →
    (s.cr4VME = true → exec (.intImm8 ib) s = .refused .vmeRedirection) ∧
    (s.cr4VME = false → s.eflags.extractLsb' 12 2 < 3 → exec (.intImm8 ib) s = .fault (.gp (some 0))) ∧
    (s.cr4VME = false → s.eflags.extractLsb' 12 2 = 3 →
      exec (.intImm8 ib) s = deliverProtected s ib.toNat .cd (nextOffset s 2)) ∧
    (s.eflags.getLsbD 11 = true → s.intoIoplSensitive = true → s.eflags.extractLsb' 12 2 < 3 →
      exec .into s = .fault (.gp (some 0))) ∧
    (s.eflags.getLsbD 11 = true → s.intoIoplSensitive = true → s.eflags.extractLsb' 12 2 = 3 →
      exec .into s = deliverProtected s 4 .ce (nextOffset s 1)) ∧
    (s.eflags.getLsbD 11 = true → s.intoIoplSensitive = false →
      exec .into s = deliverProtected s 4 .ce (nextOffset s 1)) ∧
    exec .int3 s = deliverProtected s 3 .cc (nextOffset s 1)

/-- 40_int.md R117: opcode CC goes straight to the protected-mode delivery of vector 3 whatever IOPL and VME are; outside
virtual-8086 mode it differs from `CD 03` only in the length. -/
def Obligations.BreakpointIsExempt : Prop :=
  ∀ (s : State), (mode s = .v86 → exec .int3 s = deliverProtected s 3 .cc (nextOffset s 1)) ∧
    (mode s = .v86 → ∀ vme : Bool,
      (∀ f : Fault, exec .int3 { s with cr4VME := vme } = .fault f ↔ exec .int3 s = .fault f) ∧
      (∀ t : State, exec .int3 s = .next t → exec .int3 { s with cr4VME := vme } = .next { t with cr4VME := vme })) ∧
    (mode s = .real → exec .int3 s = deliverReal s 3 (nextOffset s 1) ∧
      exec (.intImm8 3) s = deliverReal s 3 (nextOffset s 2)) ∧
    (mode s = .prot → ∀ ret : Word,
      exec .int3 s = deliverProtected s 3 .cc (nextOffset s 1) ∧
      exec (.intImm8 3) s = deliverProtected s 3 .cd (nextOffset s 2) ∧
      deliverProtected s 3 .cc ret = deliverProtected s 3 .cd ret)

/-- 40_int.md R118: with `into_iopl_sensitive` false, its default, INTO with OF = 1 in virtual-8086 mode goes to the
protected-mode delivery of vector 4 at any IOPL, and is not redirected whatever VME is.
The spec's own choice (D21; log entry 6). -/
def Obligations.IntoIoplParameter : Prop :=
  State.reset.intoIoplSensitive = false ∧
  ∀ s : State, mode s = .v86 → s.eflags.getLsbD 11 = true →
    (s.intoIoplSensitive = false → exec .into s = deliverProtected s 4 .ce (nextOffset s 1)) ∧
    (s.intoIoplSensitive = true → s.eflags.extractLsb' 12 2 < 3 → exec .into s = .fault (.gp (some 0)))

/-! ### Protected-mode delivery (60_exceptions.md R135 to R138) -/

/-- 60_exceptions.md R137 steps 3 to 5 and R140: what is no gate, or a gate with DPL below CPL, is #GP, and a gate not
present is #NP, each with error code 8*n + 2; with the parameters at their default each of them is a refusal instead
(00_scope.md R4).
The spec's general knowledge (GK21, D1, D10, D19; log entry 25). -/
def Obligations.GateChecksFault : Prop :=
  ∀ (i : Instr) (s : State) (n : Nat) (ret : Word), Delivers i s n ret → mode s ≠ .real →
    8 * n + 7 ≤ s.idtr.limit.toNat →
    (¬(s.codeTable = none ∧ s.tssTable = []) →
      ((idtGate s n).kind = .invalid → exec i s = .fault (.gp (some (BitVec.ofNat 16 (8 * n + 2))))) ∧
      ((idtGate s n).kind ≠ .invalid → (idtGate s n).dpl < s.cpl →
        exec i s = .fault (.gp (some (BitVec.ofNat 16 (8 * n + 2))))) ∧
      ((idtGate s n).kind ≠ .invalid → s.cpl ≤ (idtGate s n).dpl → (idtGate s n).present = false →
        exec i s = .fault (.np (some (BitVec.ofNat 16 (8 * n + 2)))))) ∧
    (s.codeTable = none → s.tssTable = [] →
      (idtGate s n).kind = .invalid ∨ (idtGate s n).dpl < s.cpl ∨ (idtGate s n).present = false →
      exec i s = .refused .parametersAtDefault)

/-- 60_exceptions.md R137, LoadCodeSegment: refused where it is not supplied; #GP with the selector for a null selector,
one outside the table, one that is no code segment or has DPL above CPL; #NP for one not present; and, step 8 and R136,
#GP with the selector for a handler out of virtual-8086 mode that would not run at level 0.
The spec's general knowledge (GK21, D19; log entry 7). -/
def Obligations.CodeSegmentChecksStop : Prop :=
  ∀ (i : Instr) (s : State) (n : Nat) (ret : Word), Delivers i s n ret → mode s ≠ .real → GateAdmits s n →
    (idtGate s n).kind ≠ .task →
    (s.codeTable = none → exec i s = .refused .loadCodeSegmentNotSupplied) ∧
    ∀ t, s.codeTable = some t →
      ((idtGate s n).selector = 0 ∨ findCode s.ldtr.sel (idtGate s n).selector t = none →
        exec i s = .fault (.gp (some (idtGate s n).selector))) ∧
      ∀ d, (idtGate s n).selector ≠ 0 → findCode s.ldtr.sel (idtGate s n).selector t = some d →
        (d.isCode = false ∨ s.cpl < d.dpl → exec i s = .fault (.gp (some (idtGate s n).selector))) ∧
        (d.isCode = true → d.dpl ≤ s.cpl → d.present = false →
          exec i s = .fault (.np (some (idtGate s n).selector))) ∧
        (d.isCode = true → d.dpl ≤ s.cpl → d.present = true → mode s = .v86 →
          (if d.conforming = true then s.cpl else d.dpl) ≠ 0 →
          exec i s = .fault (.gp (some (idtGate s n).selector)))

/-- 60_exceptions.md R137, StackSwitch: a delivery to a more privileged level is refused where the current TSS is not
supplied, and raises what that TSS raises for the level.
The spec's general knowledge (GK21, D19; log entry 8). -/
def Obligations.StackSwitchStops : Prop :=
  ∀ (i : Instr) (s : State) (n : Nat) (ret : Word) (hid : Hidden) (level : BitVec 2), Delivers i s n ret →
    mode s ≠ .real → GateAdmits s n → (idtGate s n).kind ≠ .task →
    handlerSegment s (idtGate s n) = .ok (hid, level) → level < s.cpl →
    (findTss s.tr.sel s.tssTable = none → exec i s = .refused .stackSwitchNotSupplied) ∧
    ∀ t f, findTss s.tr.sel s.tssTable = some t →
      (level = 0 → t.ring0 = .raises f → exec i s = .fault f) ∧
      (level = 1 → t.ring1 = .raises f → exec i s = .fault f) ∧
      (level = 2 → t.ring2 = .raises f → exec i s = .fault f)

/-- A delivery through a task gate (60_exceptions.md R138, R137): refused unless the new and the current TSS are supplied;
else the fault the new TSS raises, or the new task, every flag as in the EFLAGS image of its TSS but NT, which is set.
That the registers, CPL and LDTR are loaded from the new image as it stood before the switch, that TR gets its base and
limit, that all outgoing registers are saved in the current TSS (a switch to the current TSS among them), that of the
other task images and of memory nothing changes, and that NT, the back link and the busy bit are set as they are, is the
model's own task switch, a DESIGN CHOICE (log entry 9).
The spec gives that an image of EFLAGS controls the flags (R138) and, as general knowledge, the nesting (R137, D19). -/
def Obligations.TaskGateDelivery : Prop :=
  ∀ (i : Instr) (s : State) (n : Nat) (ret : Word), Delivers i s n ret → mode s ≠ .real → GateAdmits s n →
    (idtGate s n).kind = .task →
    (findTss (idtGate s n).selector s.tssTable = none ∨ findTss s.tr.sel s.tssTable = none →
      exec i s = .refused .taskSwitchNotSupplied) ∧
    ∀ tss old, findTss (idtGate s n).selector s.tssTable = some tss → findTss s.tr.sel s.tssTable = some old →
      (∀ f, tss.raises = some f → exec i s = .fault f) ∧
      (tss.raises = none → ∃ (t : State) (saved : Context), exec i s = .next t ∧
        (∀ j, t.eflags.getLsbD j = (tss.ctx.eflags.getLsbD j || decide (j = 14))) ∧
        t.eip = tss.ctx.eip ∧ t.cpl = tss.ctx.cpl ∧ t.cs = tss.ctx.cs ∧ t.ss = tss.ctx.ss ∧ t.ds = tss.ctx.ds ∧
        t.es = tss.ctx.es ∧ t.fs = tss.ctx.fs ∧ t.gs = tss.ctx.gs ∧ t.gpr = tss.ctx.gpr ∧ t.ldtr = tss.ctx.ldtr ∧
        t.tr = { sel := (idtGate s n).selector, base := tss.base, limit := tss.limit } ∧ t.csAtReset = false ∧
        (t.mem = s.mem ∧ t.idtr = s.idtr ∧ t.gdtr = s.gdtr ∧ t.cr0PE = s.cr0PE ∧ t.cr4VME = s.cr4VME ∧
          t.intoIoplSensitive = s.intoIoplSensitive ∧ t.codeTable = s.codeTable ∧ t.freeCount = s.freeCount) ∧
        (saved.eip = ret ∧ saved.eflags = s.eflags ∧ saved.cpl = s.cpl ∧ saved.cs = s.cs ∧ saved.ss = s.ss ∧
          saved.ds = s.ds ∧ saved.es = s.es ∧ saved.fs = s.fs ∧ saved.gs = s.gs ∧ saved.gpr = s.gpr ∧
          saved.ldtr = s.ldtr) ∧
        ((idtGate s n).selector ≠ s.tr.sel →
          findTss (idtGate s n).selector t.tssTable = some { tss with backLink := s.tr.sel, busy := true } ∧
          findTss s.tr.sel t.tssTable = some { old with ctx := saved }) ∧
        ((idtGate s n).selector = s.tr.sel →
          findTss s.tr.sel t.tssTable = some { old with ctx := saved, backLink := s.tr.sel, busy := true }) ∧
        (∀ sel, sel ≠ (idtGate s n).selector → sel ≠ s.tr.sel → findTss sel t.tssTable = findTss sel s.tssTable))

/-- The registers after a delivery through an interrupt or trap gate of INT 3, INT imm8 or INTO with OF = 1
(60_exceptions.md R137, R139): EIP, CS, CPL, SS, the stack pointer below the frame, the flags each kind of gate clears,
and the data segment registers loaded with 0 on a level change out of virtual-8086 mode.
The spec's general knowledge (GK9, GK21, D4, D7, D19; log entries 16, 24). How far the stack pointer goes down on a
level change through a 16-bit gate (2 bytes each for SS and ESP, 4 each for the data segments) is the model's choice, a
DESIGN CHOICE (log entry 28). -/
def Obligations.GateDeliveryRegisters : Prop :=
  ∀ (i : Instr) (s : State) (n : Nat) (ret : Word) (hid : Hidden) (level : BitVec 2) (ss : SegReg) (k : Stack),
    Delivers i s n ret → mode s ≠ .real → GateReady s n ret hid level ss k →
    ∃ t, exec i s = .next t ∧
      t.eip = (if (idtGate s n).wide = true then (idtGate s n).offset
        else ((idtGate s n).offset.extractLsb' 0 16).setWidth 32) ∧
      t.cs = { sel := (idtGate s n).selector.extractLsb' 2 14 ++ level, hid := hid } ∧ t.cpl = level ∧ t.ss = ss ∧
      ((idtGate s n).kind = .interrupt → ∀ j, t.eflags.getLsbD j =
        (s.eflags.getLsbD j && decide (j ≠ 8 ∧ j ≠ 9 ∧ j ≠ 14 ∧ j ≠ 16 ∧ j ≠ 17))) ∧
      ((idtGate s n).kind = .trap → ∀ j, t.eflags.getLsbD j =
        (s.eflags.getLsbD j && decide (j ≠ 8 ∧ j ≠ 14 ∧ j ≠ 16 ∧ j ≠ 17))) ∧
      t.gpr.esp = stackDown k.big k.esp
        ((if level < s.cpl then (if mode s = .v86 then 16 else 0) + (if (idtGate s n).wide = true then 8 else 4)
          else 0) + (if (idtGate s n).wide = true then 12 else 6)) ∧
      (mode s = .v86 → level < s.cpl → t.ds.sel = 0 ∧ t.es.sel = 0 ∧ t.fs.sel = 0 ∧ t.gs.sel = 0)

/-- The frame through a gate at the same level (20_memory.md R71, R72): EFLAGS, CS, EIP of the next instruction, each in
4 bytes through a 32-bit gate (CS in the low half of its slot, the upper half unstated) or in 2 through a 16-bit one.
The spec's own choice (D4, D9; log entries 10, 24). -/
def Obligations.GateFrameSameLevel : Prop :=
  ∀ (i : Instr) (s : State) (n : Nat) (ret : Word) (hid : Hidden) (level : BitVec 2) (ss : SegReg) (k : Stack),
    Delivers i s n ret → mode s ≠ .real → GateReady s n ret hid level ss k → ¬(level < s.cpl) →
    ∃ t, exec i s = .next t ∧
      ((idtGate s n).wide = true → read32 t (slotAt k 4) = s.eflags ∧ read16 t (slotAt k 8) = s.cs.sel ∧
        read32 t (slotAt k 12) = ret) ∧
      ((idtGate s n).wide = false → read16 t (slotAt k 2) = s.eflags.extractLsb' 0 16 ∧
        read16 t (slotAt k 4) = s.cs.sel ∧ read16 t (slotAt k 6) = ret.extractLsb' 0 16)

/-- The frame through a gate to a more privileged level in protected mode (20_memory.md R72, 60_exceptions.md R137): the
old SS and ESP first, on the new stack, then EFLAGS, CS and EIP.
The order and the slots through a 32-bit gate are the spec's own choice (D4, D19; log entries 10, 24); that through a
16-bit gate SS and the low half of ESP take 2 bytes each is the model's choice, a DESIGN CHOICE (log entry 28). -/
def Obligations.GateFrameLevelChange : Prop :=
  ∀ (i : Instr) (s : State) (n : Nat) (ret : Word) (hid : Hidden) (level : BitVec 2) (ss : SegReg) (k : Stack),
    Delivers i s n ret → mode s = .prot → GateReady s n ret hid level ss k → level < s.cpl →
    ∃ t, exec i s = .next t ∧
      ((idtGate s n).wide = true → read16 t (slotAt k 4) = s.ss.sel ∧ read32 t (slotAt k 8) = s.gpr.esp ∧
        read32 t (slotAt k 12) = s.eflags ∧ read16 t (slotAt k 16) = s.cs.sel ∧ read32 t (slotAt k 20) = ret) ∧
      ((idtGate s n).wide = false → read16 t (slotAt k 2) = s.ss.sel ∧
        read16 t (slotAt k 4) = s.gpr.esp.extractLsb' 0 16 ∧ read16 t (slotAt k 6) = s.eflags.extractLsb' 0 16 ∧
        read16 t (slotAt k 8) = s.cs.sel ∧ read16 t (slotAt k 10) = ret.extractLsb' 0 16)

/-- The frame out of virtual-8086 mode (20_memory.md R72, 60_exceptions.md R137): GS, FS, DS, ES, each in a 32-bit slot,
then SS, ESP, EFLAGS, CS and EIP, on the new stack.
The order and the 32-bit slots are the spec's own choice (D4, D19; log entries 10, 18, 24); that through a 16-bit gate SS
and the low half of ESP take 2 bytes each is the model's choice, a DESIGN CHOICE (log entry 28). -/
def Obligations.GateFrameFromV86 : Prop :=
  ∀ (i : Instr) (s : State) (n : Nat) (ret : Word) (hid : Hidden) (level : BitVec 2) (ss : SegReg) (k : Stack),
    Delivers i s n ret → mode s = .v86 → GateReady s n ret hid level ss k → level < s.cpl →
    ∃ t, exec i s = .next t ∧
      read16 t (slotAt k 4) = s.gs.sel ∧ read16 t (slotAt k 8) = s.fs.sel ∧ read16 t (slotAt k 12) = s.ds.sel ∧
      read16 t (slotAt k 16) = s.es.sel ∧
      ((idtGate s n).wide = true → read16 t (slotAt k 20) = s.ss.sel ∧ read32 t (slotAt k 24) = s.gpr.esp ∧
        read32 t (slotAt k 28) = s.eflags ∧ read16 t (slotAt k 32) = s.cs.sel ∧ read32 t (slotAt k 36) = ret) ∧
      ((idtGate s n).wide = false → read16 t (slotAt k 18) = s.ss.sel ∧
        read16 t (slotAt k 20) = s.gpr.esp.extractLsb' 0 16 ∧ read16 t (slotAt k 22) = s.eflags.extractLsb' 0 16 ∧
        read16 t (slotAt k 24) = s.cs.sel ∧ read16 t (slotAt k 26) = ret.extractLsb' 0 16)

/-- What a delivery through an interrupt or trap gate leaves unchanged (10_state.md R37): everything but EIP, CS, CPL,
SS, EFLAGS, ESP and the bytes of the frame, and DS, ES, FS, GS on a level change out of virtual-8086 mode.
The footprint is the spec's derivation (R37) over its own choices (D19). -/
def Obligations.GateDeliveryFrame : Prop :=
  ∀ (i : Instr) (s : State) (n : Nat) (ret : Word) (hid : Hidden) (level : BitVec 2) (ss : SegReg) (k : Stack)
    (t : State), Delivers i s n ret → mode s ≠ .real → GateReady s n ret hid level ss k → exec i s = .next t →
      t = { s with
        eip := t.eip, cs := t.cs, csAtReset := t.csAtReset, cpl := t.cpl, ss := t.ss, ds := t.ds, es := t.es,
        fs := t.fs, gs := t.gs, eflags := t.eflags, gpr := { s.gpr with esp := t.gpr.esp }, mem := t.mem,
        freeCount := t.freeCount } ∧
      (¬(level < s.cpl) → t.ss = s.ss) ∧
      (¬(mode s = .v86 ∧ level < s.cpl) → t.ds = s.ds ∧ t.es = s.es ∧ t.fs = s.fs ∧ t.gs = s.gs) ∧
      (k.big = false → t.gpr.esp.extractLsb' 16 16 = k.esp.extractLsb' 16 16) ∧
      ∀ a : Word, (∀ c ∈ pushCells k (gateFrame s (idtGate s n).wide level ret), c.1 ≠ a) →
        readByte t a = readByte s a

/-! ### The whole machine -/

/-- 40_int.md R114: unless a task gate is used, no instruction sets a flag, and the eleven unaffected flags, IOPL and the
reserved bits keep their value; only IF, TF, AC, VM, RF and NT may be cleared.
Of R114 this leaves out the pushed image (RealDeliveryStack, GateFrameSameLevel). -/
def Obligations.NoFlagIsEverSet : Prop :=
  ∀ (i : Instr) (s t : State), exec i s = .next t →
    (∀ n ret, Delivers i s n ret → mode s ≠ .real → (idtGate s n).kind ≠ .task) →
    ∀ j, (t.eflags.getLsbD j = true → s.eflags.getLsbD j = true) ∧
      (j ≠ 8 → j ≠ 9 → j ≠ 14 → j ≠ 16 → j ≠ 17 → j ≠ 18 → t.eflags.getLsbD j = s.eflags.getLsbD j)

/-- 10_state.md R20, R32, R37: no step writes IDTR, GDTR, CR0.PE, CR4.VME, the parameter or the code table, and one whose
instruction delivers through no task gate none of LDTR, TR, the task images or a general register other than ESP.
The footprint is the spec's derivation (R37). -/
def Obligations.SystemRegistersAreNeverWritten : Prop :=
  ∀ (s t : State), step s = .next t →
    (t.idtr = s.idtr ∧ t.gdtr = s.gdtr ∧ t.cr0PE = s.cr0PE ∧ t.cr4VME = s.cr4VME ∧
      t.intoIoplSensitive = s.intoIoplSensitive ∧ t.codeTable = s.codeTable) ∧
    ∀ (i : Instr) (rest : List Byte), decode (fetchBytes s) = .ok (i, rest) →
      (∀ n ret, Delivers i s n ret → mode s ≠ .real → (idtGate s n).kind ≠ .task) →
      t.ldtr = s.ldtr ∧ t.tr = s.tr ∧ t.tssTable = s.tssTable ∧ t.gpr = { s.gpr with esp := t.gpr.esp }

/-- 20_memory.md R81: the three protection facts. (a) In virtual-8086 mode, with VME off (90_conflicts.md C4), `CD ib`
with IOPL below 3 is #GP. (b) Opcode CC is taken at any IOPL: it goes to the protected-mode delivery of vector 3. (c) A
delivery out of virtual-8086 mode through an interrupt or trap gate is executed only where the gate's DPL is 3 and the
handler's CPL is 0, and it enters protected mode. -/
def Obligations.V86ProtectionFacts : Prop :=
  ∀ s : State, launchOk s = true → mode s = .v86 →
    (s.cr4VME = false → ∀ ib : Byte, s.eflags.extractLsb' 12 2 < 3 → ∃ code, exec (.intImm8 ib) s = .fault (.gp code)) ∧
    exec .int3 s = deliverProtected s 3 .cc (nextOffset s 1) ∧
    ∀ (i : Instr) (n : Nat) (ret : Word) (t : State), Delivers i s n ret → (idtGate s n).kind ≠ .task →
      exec i s = .next t → (idtGate s n).dpl = 3 ∧ t.cpl = 0 ∧ mode t = .prot

/-- 60_exceptions.md R137: with no task gate, no instruction leaves the machine less privileged.
The spec's general knowledge (GK21, D19). -/
def Obligations.PrivilegeIsNeverLost : Prop :=
  ∀ (i : Instr) (s t : State), exec i s = .next t →
    (∀ n ret, Delivers i s n ret → mode s ≠ .real → (idtGate s n).kind ≠ .task) → t.cpl ≤ s.cpl

/-- Every step keeps the invariant, and what it leads to is a launch state: the launch conditions of
70_reset_and_hazards.md R181 (the reserved bits of EFLAGS among them, 10_state.md R28), memory in its canonical form,
and task images the machine can run on.
The launch conditions are the spec's own choice (D23, D26); the form of memory and of task images is the model's (log entries 2, 9). -/
def Obligations.StepKeepsMachineInvariant : Prop :=
  ∀ s t : State, s.Inv → step s = .next t → t.Inv ∧ launchOk t = true

/-- The machine after reset meets the invariant.
The reset values but IDTR.base are the spec's general knowledge (log entry 1). -/
def Obligations.ResetMeetsMachineInvariant : Prop := State.reset.Inv

/-- 70_reset_and_hazards.md R180: the initial base address of the IDTR after power-up or reset is 0. -/
def Obligations.ResetIdtrBaseIsZero : Prop := State.reset.idtr.base = 0

/-- 10_state.md R36, the reset values the table gives (general knowledge in the spec itself, log entry 1; EDX and memory
have none there).
The spec's own choice (D23). -/
def Obligations.ResetRegisterValues : Prop :=
  State.reset.idtr.limit = 0xFFFF ∧ State.reset.eflags = 0x00000002 ∧ State.reset.eip = 0x0000FFF0 ∧
  State.reset.cs.sel = 0xF000 ∧ lin State.reset .cs State.reset.eip = 0xFFFFFFF0 ∧
  (∀ r : SegName, r ≠ .cs → (segReg State.reset r).sel = 0 ∧ (segReg State.reset r).hid.base = 0) ∧
  State.reset.gpr.esp = 0 ∧ State.reset.gpr.eax = 0 ∧ State.reset.gpr.ebx = 0 ∧ State.reset.gpr.ecx = 0 ∧
  State.reset.gpr.ebp = 0 ∧ State.reset.gpr.esi = 0 ∧ State.reset.gpr.edi = 0 ∧ mode State.reset = .real ∧
  State.reset.cr4VME = false ∧ State.reset.cpl = 0

/-- 10_state.md R29: CR0.PE and EFLAGS.VM select the mode.
The spec's general knowledge (GK18, D20). -/
def Obligations.ModeIsSelectedByPeAndVm : Prop :=
  ∀ s : State, (mode s = .real ↔ s.cr0PE = false) ∧
    (mode s = .v86 ↔ s.cr0PE = true ∧ s.eflags.getLsbD 17 = true) ∧
    (mode s = .prot ↔ s.cr0PE = true ∧ s.eflags.getLsbD 17 = false)

/-- 00_scope.md R4: with the parameters at their default, every delivery in protected or virtual-8086 mode that gets as
far as reading the IDT is a refusal.
The spec's own choice (D1; log entry 25). -/
def Obligations.DefaultParametersRefuse : Prop :=
  ∀ (i : Instr) (s : State) (n : Nat) (ret : Word), Delivers i s n ret → mode s ≠ .real →
    8 * n + 7 ≤ s.idtr.limit.toNat → s.codeTable = none → s.tssTable = [] → ∃ r, exec i s = .refused r

/-- 70_reset_and_hazards.md R181: a launch of the state after reset is refused, and so is any in real-address mode with CS
not loaded since reset; once launched, with CS loaded, the state after reset is a launch state.
The spec's own choice (D23; log entries 4, 23). -/
def Obligations.ResetLaunchIsRefused : Prop :=
  step State.reset = .refused .notALaunchState ∧
  (∀ s : State, mode s = .real → s.csAtReset = true → step s = .refused .notALaunchState) ∧
  launchOk (launched State.reset) = true ∧ lin (launched State.reset) .cs State.reset.eip = 0xFFFF0
end

