-- ==== Sys2Proof/Laws/Memory.lean ====
section
/-! SUPPORT. The laws of memory: what reads as what after a store, and that every memory operation keeps the canonical
form (20_memory.md R60, R76). -/

namespace Sys2Proof.Machine

theorem Memory.read_insert (m : Memory) (a c : Nat) (b : Byte) :
    (m.insert a b).read c = if c = a then b else m.read c := by
  induction m with
  | nil => simp only [Memory.insert, Memory.read, eq_comm]
  | cons e m ih =>
    obtain ⟨k, v⟩ := e
    simp only [Memory.insert]
    split
    · simp only [Memory.read, eq_comm (a := a)]
    · split
      · next h => subst h; simp only [Memory.read, eq_comm (a := a)]; split <;> rfl
      · next h =>
        simp only [Memory.read, ih]
        split
        · next hk => subst hk; rw [if_neg (Ne.symm h)]
        · rfl

theorem Memory.read_filter_ne (m : Memory) (a c : Nat) :
    Memory.read (m.filter (fun e => decide (e.1 ≠ a))) c = if c = a then Config.unlistedByte else m.read c := by
  induction m with
  | nil => simp [Memory.read]
  | cons e m ih =>
    obtain ⟨k, v⟩ := e
    by_cases hk : k = a
    · subst hk
      rw [List.filter_cons_of_neg (by simp), ih]
      split
      · rfl
      · next h => simp [Memory.read, Ne.symm h]
    · rw [List.filter_cons_of_pos (by simpa using hk)]
      simp only [Memory.read, ih]
      split
      · next h => subst h; rw [if_neg hk]
      · rfl

/-- A read after a store: the byte stored at that address, and at every other address what was there before. -/
theorem Memory.read_write (m : Memory) (a c : Nat) (b : Byte) :
    (m.write a b).read c = if c = a then b else m.read c := by
  unfold Memory.write
  split
  · next h => rw [Memory.read_filter_ne, h]
  · exact Memory.read_insert m a c b

@[simp] theorem Memory.read_write_same (m : Memory) (a : Nat) (b : Byte) : (m.write a b).read a = b := by
  rw [Memory.read_write, if_pos rfl]

theorem Memory.read_write_ne (m : Memory) {a c : Nat} (b : Byte) (h : c ≠ a) : (m.write a b).read c = m.read c := by
  rw [Memory.read_write, if_neg h]

theorem Memory.mem_insert {m : Memory} {a : Nat} {b : Byte} {e : Host.Cell} (h : e ∈ m.insert a b) :
    e = (a, b) ∨ e ∈ m := by
  induction m with
  | nil => simpa [Memory.insert] using h
  | cons f m ih =>
    obtain ⟨k, v⟩ := f
    simp only [Memory.insert] at h
    split at h
    · simpa using h
    · split at h
      · rcases List.mem_cons.1 h with h | h
        · exact .inl h
        · exact .inr (List.mem_cons_of_mem _ h)
      · rcases List.mem_cons.1 h with h | h
        · exact .inr (by simp [h])
        · exact (ih h).imp_right (List.mem_cons_of_mem _)

theorem Memory.insert_sorted {m : Memory} (a : Nat) (b : Byte) (h : m.Pairwise (fun c d => c.1 < d.1)) :
    (m.insert a b).Pairwise (fun c d => c.1 < d.1) := by
  induction m with
  | nil => simp [Memory.insert]
  | cons e m ih =>
    obtain ⟨k, v⟩ := e
    obtain ⟨hk, hm⟩ := List.pairwise_cons.1 h
    simp only [Memory.insert]
    split
    · next ha =>
      refine List.pairwise_cons.2 ⟨fun e he => ?_, h⟩
      rcases List.mem_cons.1 he with rfl | he
      · exact ha
      · exact Nat.lt_trans ha (hk e he)
    · split
      · next ha => subst ha; exact List.pairwise_cons.2 ⟨hk, hm⟩
      · next h1 h2 =>
        refine List.pairwise_cons.2 ⟨fun e he => ?_, ih hm⟩
        rcases Memory.mem_insert he with rfl | he
        · show k < a; omega
        · exact hk e he

/-- The canonical form, spelt out. -/
theorem Memory.wf_iff (m : Memory) :
    m.wf = true ↔ m.Pairwise (fun c d => c.1 < d.1) ∧ ∀ e ∈ m, e.1 < 2 ^ 32 ∧ e.2 ≠ Config.unlistedByte := by
  simp only [Memory.wf, Bool.and_eq_true, decide_eq_true_eq, List.all_eq_true]

/-- A store at an address of the address space keeps the canonical form. -/
theorem Memory.write_wf {m : Memory} {a : Nat} (b : Byte) (h : m.wf = true) (ha : a < 2 ^ 32) :
    (m.write a b).wf = true := by
  rw [Memory.wf_iff] at h ⊢
  obtain ⟨hs, hm⟩ := h
  unfold Memory.write
  split
  · exact ⟨hs.filter _, fun e he => hm e (List.mem_filter.1 he).1⟩
  · next hb =>
    refine ⟨Memory.insert_sorted a b hs, fun e he => ?_⟩
    rcases Memory.mem_insert he with rfl | he
    · exact ⟨ha, hb⟩
    · exact hm e he

/-- Stores one after another keep the canonical form. -/
theorem foldl_write_wf (s : State) (cells : List (Word × Byte)) :
    ∀ m : Memory, m.wf = true →
      Memory.wf (cells.foldl (fun m c => m.write (translateLinear s c.1).toNat c.2) m) = true := by
  induction cells with
  | nil => exact fun m h => h
  | cons c cells ih => exact fun m h => ih _ (Memory.write_wf c.2 h (translateLinear s c.1).isLt)

theorem writeCells_wf (s : State) (cells : List (Word × Byte)) (h : s.mem.wf = true) :
    (writeCells s cells).wf = true := foldl_write_wf s cells s.mem h

/-- Stores leave every byte that is not stored to unchanged. -/
theorem foldl_write_read (s : State) (cells : List (Word × Byte)) (a : Word) (h : ∀ c ∈ cells, c.1 ≠ a) :
    ∀ m : Memory, Memory.read (cells.foldl (fun m c => m.write (translateLinear s c.1).toNat c.2) m) a.toNat =
      m.read a.toNat := by
  induction cells with
  | nil => exact fun m => rfl
  | cons c cells ih =>
    intro m
    rw [List.foldl_cons, ih (fun d hd => h d (List.mem_cons_of_mem _ hd))]
    refine Memory.read_write_ne m c.2 (fun e => ?_)
    exact h c (List.mem_cons_self ..) (BitVec.eq_of_toNat_eq e.symm)

theorem writeCells_read_of_not_mem (s : State) (cells : List (Word × Byte)) (a : Word) (h : ∀ c ∈ cells, c.1 ≠ a) :
    (writeCells s cells).read a.toNat = s.mem.read a.toNat := foldl_write_read s cells a h s.mem

/-- A byte that one store writes and no later one touches reads as stored. -/
theorem writeCells_read_stored (s : State) (before after : List (Word × Byte)) (a : Word) (b : Byte)
    (h : ∀ c ∈ after, c.1 ≠ a) : (writeCells s (before ++ (a, b) :: after)).read a.toNat = b := by
  unfold writeCells
  rw [List.foldl_append, List.foldl_cons, foldl_write_read s after a h]
  exact Memory.read_write_same ..

end Sys2Proof.Machine
end

