-- ==== Sys2Proof/Laws/State.lean ====
section
/-! SUPPORT. What each update of the state does to each field, one lemma a field, true by rfl. -/

namespace Sys2Proof.Machine

/-! ### A real-address-mode delivery (60_exceptions.md R134). -/

@[simp] theorem enterReal_eip (s : State) (ea ret : Word) : (enterReal s ea ret).eip = (read16 s ea).setWidth 32 := rfl
@[simp] theorem enterReal_eflags (s : State) (ea ret : Word) : (enterReal s ea ret).eflags = clearFlags realCleared s.eflags := rfl
@[simp] theorem enterReal_cpl (s : State) (ea ret : Word) : (enterReal s ea ret).cpl = s.cpl := rfl
@[simp] theorem enterReal_cs (s : State) (ea ret : Word) : (enterReal s ea ret).cs = loadSegReal s.cs (read16 s (ea + 2)) := rfl
@[simp] theorem enterReal_ss (s : State) (ea ret : Word) : (enterReal s ea ret).ss = s.ss := rfl
@[simp] theorem enterReal_ds (s : State) (ea ret : Word) : (enterReal s ea ret).ds = s.ds := rfl
@[simp] theorem enterReal_es (s : State) (ea ret : Word) : (enterReal s ea ret).es = s.es := rfl
@[simp] theorem enterReal_fs (s : State) (ea ret : Word) : (enterReal s ea ret).fs = s.fs := rfl
@[simp] theorem enterReal_gs (s : State) (ea ret : Word) : (enterReal s ea ret).gs = s.gs := rfl
@[simp] theorem enterReal_csAtReset (s : State) (ea ret : Word) : (enterReal s ea ret).csAtReset = false := rfl
@[simp] theorem enterReal_gpr (s : State) (ea ret : Word) : (enterReal s ea ret).gpr = { s.gpr with esp := (pushedAll (realStack s) (realFrame s ret)).esp } := rfl
@[simp] theorem enterReal_idtr (s : State) (ea ret : Word) : (enterReal s ea ret).idtr = s.idtr := rfl
@[simp] theorem enterReal_gdtr (s : State) (ea ret : Word) : (enterReal s ea ret).gdtr = s.gdtr := rfl
@[simp] theorem enterReal_ldtr (s : State) (ea ret : Word) : (enterReal s ea ret).ldtr = s.ldtr := rfl
@[simp] theorem enterReal_tr (s : State) (ea ret : Word) : (enterReal s ea ret).tr = s.tr := rfl
@[simp] theorem enterReal_cr0PE (s : State) (ea ret : Word) : (enterReal s ea ret).cr0PE = s.cr0PE := rfl
@[simp] theorem enterReal_cr4VME (s : State) (ea ret : Word) : (enterReal s ea ret).cr4VME = s.cr4VME := rfl
@[simp] theorem enterReal_intoIoplSensitive (s : State) (ea ret : Word) : (enterReal s ea ret).intoIoplSensitive = s.intoIoplSensitive := rfl
@[simp] theorem enterReal_codeTable (s : State) (ea ret : Word) : (enterReal s ea ret).codeTable = s.codeTable := rfl
@[simp] theorem enterReal_tssTable (s : State) (ea ret : Word) : (enterReal s ea ret).tssTable = s.tssTable := rfl
@[simp] theorem enterReal_freeCount (s : State) (ea ret : Word) : (enterReal s ea ret).freeCount = s.freeCount := rfl
@[simp] theorem enterReal_mem (s : State) (ea ret : Word) : (enterReal s ea ret).mem = writeCells s (realFrameCells s ret) := rfl

/-! ### A delivery through an interrupt or trap gate (60_exceptions.md R137). -/

@[simp] theorem enterGate_eip (s : State) (g : Gate) (hid : Hidden) (level : BitVec 2) (r : SegReg)
    (k : Stack) (ret : Word) : (enterGate s g hid level r k ret).eip = gateOffset g := rfl
@[simp] theorem enterGate_eflags (s : State) (g : Gate) (hid : Hidden) (level : BitVec 2) (r : SegReg)
    (k : Stack) (ret : Word) : (enterGate s g hid level r k ret).eflags = clearFlags (gateCleared g.kind) s.eflags := rfl
@[simp] theorem enterGate_cpl (s : State) (g : Gate) (hid : Hidden) (level : BitVec 2) (r : SegReg)
    (k : Stack) (ret : Word) : (enterGate s g hid level r k ret).cpl = level := rfl
@[simp] theorem enterGate_cs (s : State) (g : Gate) (hid : Hidden) (level : BitVec 2) (r : SegReg)
    (k : Stack) (ret : Word) : (enterGate s g hid level r k ret).cs = { sel := withRpl g.selector level, hid := hid } := rfl
@[simp] theorem enterGate_ss (s : State) (g : Gate) (hid : Hidden) (level : BitVec 2) (r : SegReg)
    (k : Stack) (ret : Word) : (enterGate s g hid level r k ret).ss = r := rfl
@[simp] theorem enterGate_ds (s : State) (g : Gate) (hid : Hidden) (level : BitVec 2) (r : SegReg)
    (k : Stack) (ret : Word) : (enterGate s g hid level r k ret).ds = dataSegAfter s level s.ds := rfl
@[simp] theorem enterGate_es (s : State) (g : Gate) (hid : Hidden) (level : BitVec 2) (r : SegReg)
    (k : Stack) (ret : Word) : (enterGate s g hid level r k ret).es = dataSegAfter s level s.es := rfl
@[simp] theorem enterGate_fs (s : State) (g : Gate) (hid : Hidden) (level : BitVec 2) (r : SegReg)
    (k : Stack) (ret : Word) : (enterGate s g hid level r k ret).fs = dataSegAfter s level s.fs := rfl
@[simp] theorem enterGate_gs (s : State) (g : Gate) (hid : Hidden) (level : BitVec 2) (r : SegReg)
    (k : Stack) (ret : Word) : (enterGate s g hid level r k ret).gs = dataSegAfter s level s.gs := rfl
@[simp] theorem enterGate_csAtReset (s : State) (g : Gate) (hid : Hidden) (level : BitVec 2) (r : SegReg)
    (k : Stack) (ret : Word) : (enterGate s g hid level r k ret).csAtReset = false := rfl
@[simp] theorem enterGate_gpr (s : State) (g : Gate) (hid : Hidden) (level : BitVec 2) (r : SegReg)
    (k : Stack) (ret : Word) : (enterGate s g hid level r k ret).gpr = 
      { s.gpr with esp := (pushedAll k (gateFrame s g.wide level ret)).esp } := rfl
@[simp] theorem enterGate_idtr (s : State) (g : Gate) (hid : Hidden) (level : BitVec 2) (r : SegReg)
    (k : Stack) (ret : Word) : (enterGate s g hid level r k ret).idtr = s.idtr := rfl
@[simp] theorem enterGate_gdtr (s : State) (g : Gate) (hid : Hidden) (level : BitVec 2) (r : SegReg)
    (k : Stack) (ret : Word) : (enterGate s g hid level r k ret).gdtr = s.gdtr := rfl
@[simp] theorem enterGate_ldtr (s : State) (g : Gate) (hid : Hidden) (level : BitVec 2) (r : SegReg)
    (k : Stack) (ret : Word) : (enterGate s g hid level r k ret).ldtr = s.ldtr := rfl
@[simp] theorem enterGate_tr (s : State) (g : Gate) (hid : Hidden) (level : BitVec 2) (r : SegReg)
    (k : Stack) (ret : Word) : (enterGate s g hid level r k ret).tr = s.tr := rfl
@[simp] theorem enterGate_cr0PE (s : State) (g : Gate) (hid : Hidden) (level : BitVec 2) (r : SegReg)
    (k : Stack) (ret : Word) : (enterGate s g hid level r k ret).cr0PE = s.cr0PE := rfl
@[simp] theorem enterGate_cr4VME (s : State) (g : Gate) (hid : Hidden) (level : BitVec 2) (r : SegReg)
    (k : Stack) (ret : Word) : (enterGate s g hid level r k ret).cr4VME = s.cr4VME := rfl
@[simp] theorem enterGate_intoIoplSensitive (s : State) (g : Gate) (hid : Hidden) (level : BitVec 2) (r : SegReg)
    (k : Stack) (ret : Word) : (enterGate s g hid level r k ret).intoIoplSensitive = s.intoIoplSensitive := rfl
@[simp] theorem enterGate_codeTable (s : State) (g : Gate) (hid : Hidden) (level : BitVec 2) (r : SegReg)
    (k : Stack) (ret : Word) : (enterGate s g hid level r k ret).codeTable = s.codeTable := rfl
@[simp] theorem enterGate_tssTable (s : State) (g : Gate) (hid : Hidden) (level : BitVec 2) (r : SegReg)
    (k : Stack) (ret : Word) : (enterGate s g hid level r k ret).tssTable = s.tssTable := rfl
@[simp] theorem enterGate_freeCount (s : State) (g : Gate) (hid : Hidden) (level : BitVec 2) (r : SegReg)
    (k : Stack) (ret : Word) : (enterGate s g hid level r k ret).freeCount = s.freeCount + 6 := rfl
@[simp] theorem enterGate_mem (s : State) (g : Gate) (hid : Hidden) (level : BitVec 2) (r : SegReg)
    (k : Stack) (ret : Word) : (enterGate s g hid level r k ret).mem = 
      writeCells s (pushCells k (gateFrame s g.wide level ret)) := rfl

/-! ### A task switch (60_exceptions.md R137, R138). -/

@[simp] theorem enterTask_eip (s : State) (sel : Half) (t : Tss) (ret : Word) : (enterTask s sel t ret).eip = t.ctx.eip := rfl
@[simp] theorem enterTask_eflags (s : State) (sel : Half) (t : Tss) (ret : Word) : (enterTask s sel t ret).eflags = setFlag .nt t.ctx.eflags := rfl
@[simp] theorem enterTask_cpl (s : State) (sel : Half) (t : Tss) (ret : Word) : (enterTask s sel t ret).cpl = t.ctx.cpl := rfl
@[simp] theorem enterTask_cs (s : State) (sel : Half) (t : Tss) (ret : Word) : (enterTask s sel t ret).cs = t.ctx.cs := rfl
@[simp] theorem enterTask_ss (s : State) (sel : Half) (t : Tss) (ret : Word) : (enterTask s sel t ret).ss = t.ctx.ss := rfl
@[simp] theorem enterTask_ds (s : State) (sel : Half) (t : Tss) (ret : Word) : (enterTask s sel t ret).ds = t.ctx.ds := rfl
@[simp] theorem enterTask_es (s : State) (sel : Half) (t : Tss) (ret : Word) : (enterTask s sel t ret).es = t.ctx.es := rfl
@[simp] theorem enterTask_fs (s : State) (sel : Half) (t : Tss) (ret : Word) : (enterTask s sel t ret).fs = t.ctx.fs := rfl
@[simp] theorem enterTask_gs (s : State) (sel : Half) (t : Tss) (ret : Word) : (enterTask s sel t ret).gs = t.ctx.gs := rfl
@[simp] theorem enterTask_csAtReset (s : State) (sel : Half) (t : Tss) (ret : Word) : (enterTask s sel t ret).csAtReset = false := rfl
@[simp] theorem enterTask_gpr (s : State) (sel : Half) (t : Tss) (ret : Word) : (enterTask s sel t ret).gpr = t.ctx.gpr := rfl
@[simp] theorem enterTask_idtr (s : State) (sel : Half) (t : Tss) (ret : Word) : (enterTask s sel t ret).idtr = s.idtr := rfl
@[simp] theorem enterTask_gdtr (s : State) (sel : Half) (t : Tss) (ret : Word) : (enterTask s sel t ret).gdtr = s.gdtr := rfl
@[simp] theorem enterTask_ldtr (s : State) (sel : Half) (t : Tss) (ret : Word) : (enterTask s sel t ret).ldtr = t.ctx.ldtr := rfl
@[simp] theorem enterTask_tr (s : State) (sel : Half) (t : Tss) (ret : Word) : (enterTask s sel t ret).tr = { sel := sel, base := t.base, limit := t.limit } := rfl
@[simp] theorem enterTask_cr0PE (s : State) (sel : Half) (t : Tss) (ret : Word) : (enterTask s sel t ret).cr0PE = s.cr0PE := rfl
@[simp] theorem enterTask_cr4VME (s : State) (sel : Half) (t : Tss) (ret : Word) : (enterTask s sel t ret).cr4VME = s.cr4VME := rfl
@[simp] theorem enterTask_intoIoplSensitive (s : State) (sel : Half) (t : Tss) (ret : Word) : (enterTask s sel t ret).intoIoplSensitive = s.intoIoplSensitive := rfl
@[simp] theorem enterTask_codeTable (s : State) (sel : Half) (t : Tss) (ret : Word) : (enterTask s sel t ret).codeTable = s.codeTable := rfl
@[simp] theorem enterTask_tssTable (s : State) (sel : Half) (t : Tss) (ret : Word) : (enterTask s sel t ret).tssTable = switchedTssTable s sel ret := rfl
@[simp] theorem enterTask_freeCount (s : State) (sel : Half) (t : Tss) (ret : Word) : (enterTask s sel t ret).freeCount = s.freeCount := rfl
@[simp] theorem enterTask_mem (s : State) (sel : Half) (t : Tss) (ret : Word) : (enterTask s sel t ret).mem = s.mem := rfl

/-! ### The real-address-mode frame popped (60_exceptions.md R144). -/

@[simp] theorem popFrameReal_eip (s : State) : (popFrameReal s).eip = (read16 s (lin s .ss s.gpr.esp)).setWidth 32 := rfl
@[simp] theorem popFrameReal_eflags (s : State) : (popFrameReal s).eflags = 
      s.eflags.extractLsb' 16 16 ++ read16 s (lin s .ss (stackUp s.gpr.esp 4)) := rfl
@[simp] theorem popFrameReal_cpl (s : State) : (popFrameReal s).cpl = s.cpl := rfl
@[simp] theorem popFrameReal_cs (s : State) : (popFrameReal s).cs = 
      loadSegReal s.cs (read16 s (lin s .ss (stackUp s.gpr.esp 2))) := rfl
@[simp] theorem popFrameReal_ss (s : State) : (popFrameReal s).ss = s.ss := rfl
@[simp] theorem popFrameReal_ds (s : State) : (popFrameReal s).ds = s.ds := rfl
@[simp] theorem popFrameReal_es (s : State) : (popFrameReal s).es = s.es := rfl
@[simp] theorem popFrameReal_fs (s : State) : (popFrameReal s).fs = s.fs := rfl
@[simp] theorem popFrameReal_gs (s : State) : (popFrameReal s).gs = s.gs := rfl
@[simp] theorem popFrameReal_csAtReset (s : State) : (popFrameReal s).csAtReset = false := rfl
@[simp] theorem popFrameReal_gpr (s : State) : (popFrameReal s).gpr = { s.gpr with esp := stackUp s.gpr.esp 6 } := rfl
@[simp] theorem popFrameReal_idtr (s : State) : (popFrameReal s).idtr = s.idtr := rfl
@[simp] theorem popFrameReal_gdtr (s : State) : (popFrameReal s).gdtr = s.gdtr := rfl
@[simp] theorem popFrameReal_ldtr (s : State) : (popFrameReal s).ldtr = s.ldtr := rfl
@[simp] theorem popFrameReal_tr (s : State) : (popFrameReal s).tr = s.tr := rfl
@[simp] theorem popFrameReal_cr0PE (s : State) : (popFrameReal s).cr0PE = s.cr0PE := rfl
@[simp] theorem popFrameReal_cr4VME (s : State) : (popFrameReal s).cr4VME = s.cr4VME := rfl
@[simp] theorem popFrameReal_intoIoplSensitive (s : State) : (popFrameReal s).intoIoplSensitive = s.intoIoplSensitive := rfl
@[simp] theorem popFrameReal_codeTable (s : State) : (popFrameReal s).codeTable = s.codeTable := rfl
@[simp] theorem popFrameReal_tssTable (s : State) : (popFrameReal s).tssTable = s.tssTable := rfl
@[simp] theorem popFrameReal_freeCount (s : State) : (popFrameReal s).freeCount = s.freeCount := rfl
@[simp] theorem popFrameReal_mem (s : State) : (popFrameReal s).mem = s.mem := rfl

/-! ### The launch state made of a state. -/

@[simp] theorem launched_cs (s : State) : (launched s).cs = launchedCs s := rfl
@[simp] theorem launched_csAtReset (s : State) :
    (launched s).csAtReset = (s.csAtReset && decide (mode s ≠ .real)) := rfl
@[simp] theorem launched_eip (s : State) : (launched s).eip = s.eip := rfl
@[simp] theorem launched_eflags (s : State) : (launched s).eflags = s.eflags := rfl
@[simp] theorem launched_cpl (s : State) : (launched s).cpl = s.cpl := rfl
@[simp] theorem launched_ss (s : State) : (launched s).ss = s.ss := rfl
@[simp] theorem launched_ds (s : State) : (launched s).ds = s.ds := rfl
@[simp] theorem launched_es (s : State) : (launched s).es = s.es := rfl
@[simp] theorem launched_fs (s : State) : (launched s).fs = s.fs := rfl
@[simp] theorem launched_gs (s : State) : (launched s).gs = s.gs := rfl
@[simp] theorem launched_gpr (s : State) : (launched s).gpr = s.gpr := rfl
@[simp] theorem launched_idtr (s : State) : (launched s).idtr = s.idtr := rfl
@[simp] theorem launched_gdtr (s : State) : (launched s).gdtr = s.gdtr := rfl
@[simp] theorem launched_ldtr (s : State) : (launched s).ldtr = s.ldtr := rfl
@[simp] theorem launched_tr (s : State) : (launched s).tr = s.tr := rfl
@[simp] theorem launched_cr0PE (s : State) : (launched s).cr0PE = s.cr0PE := rfl
@[simp] theorem launched_cr4VME (s : State) : (launched s).cr4VME = s.cr4VME := rfl
@[simp] theorem launched_intoIoplSensitive (s : State) : (launched s).intoIoplSensitive = s.intoIoplSensitive := rfl
@[simp] theorem launched_codeTable (s : State) : (launched s).codeTable = s.codeTable := rfl
@[simp] theorem launched_tssTable (s : State) : (launched s).tssTable = s.tssTable := rfl
@[simp] theorem launched_freeCount (s : State) : (launched s).freeCount = s.freeCount := rfl
@[simp] theorem launched_mem (s : State) : (launched s).mem = s.mem := rfl

/-! ### An instruction placed where the next fetch reads. -/

@[simp] theorem State.withFetchWord_eip (s : State) (nbits w : Nat) : (s.withFetchWord nbits w).eip = s.eip := rfl
@[simp] theorem State.withFetchWord_eflags (s : State) (nbits w : Nat) : (s.withFetchWord nbits w).eflags = s.eflags := rfl
@[simp] theorem State.withFetchWord_cpl (s : State) (nbits w : Nat) : (s.withFetchWord nbits w).cpl = s.cpl := rfl
@[simp] theorem State.withFetchWord_cs (s : State) (nbits w : Nat) : (s.withFetchWord nbits w).cs = launchedCs s := rfl
@[simp] theorem State.withFetchWord_ss (s : State) (nbits w : Nat) : (s.withFetchWord nbits w).ss = s.ss := rfl
@[simp] theorem State.withFetchWord_ds (s : State) (nbits w : Nat) : (s.withFetchWord nbits w).ds = s.ds := rfl
@[simp] theorem State.withFetchWord_es (s : State) (nbits w : Nat) : (s.withFetchWord nbits w).es = s.es := rfl
@[simp] theorem State.withFetchWord_fs (s : State) (nbits w : Nat) : (s.withFetchWord nbits w).fs = s.fs := rfl
@[simp] theorem State.withFetchWord_gs (s : State) (nbits w : Nat) : (s.withFetchWord nbits w).gs = s.gs := rfl
@[simp] theorem State.withFetchWord_csAtReset (s : State) (nbits w : Nat) : (s.withFetchWord nbits w).csAtReset =
      (s.csAtReset && decide (mode s ≠ .real)) := rfl
@[simp] theorem State.withFetchWord_gpr (s : State) (nbits w : Nat) : (s.withFetchWord nbits w).gpr = s.gpr := rfl
@[simp] theorem State.withFetchWord_idtr (s : State) (nbits w : Nat) : (s.withFetchWord nbits w).idtr = s.idtr := rfl
@[simp] theorem State.withFetchWord_gdtr (s : State) (nbits w : Nat) : (s.withFetchWord nbits w).gdtr = s.gdtr := rfl
@[simp] theorem State.withFetchWord_ldtr (s : State) (nbits w : Nat) : (s.withFetchWord nbits w).ldtr = s.ldtr := rfl
@[simp] theorem State.withFetchWord_tr (s : State) (nbits w : Nat) : (s.withFetchWord nbits w).tr = s.tr := rfl
@[simp] theorem State.withFetchWord_cr0PE (s : State) (nbits w : Nat) : (s.withFetchWord nbits w).cr0PE = s.cr0PE := rfl
@[simp] theorem State.withFetchWord_cr4VME (s : State) (nbits w : Nat) : (s.withFetchWord nbits w).cr4VME = s.cr4VME := rfl
@[simp] theorem State.withFetchWord_intoIoplSensitive (s : State) (nbits w : Nat) : (s.withFetchWord nbits w).intoIoplSensitive = s.intoIoplSensitive := rfl
@[simp] theorem State.withFetchWord_codeTable (s : State) (nbits w : Nat) : (s.withFetchWord nbits w).codeTable = s.codeTable := rfl
@[simp] theorem State.withFetchWord_tssTable (s : State) (nbits w : Nat) : (s.withFetchWord nbits w).tssTable = s.tssTable := rfl
@[simp] theorem State.withFetchWord_freeCount (s : State) (nbits w : Nat) : (s.withFetchWord nbits w).freeCount = s.freeCount := rfl
@[simp] theorem State.withFetchWord_mem (s : State) (nbits w : Nat) : (s.withFetchWord nbits w).mem = 
      writeCells (launched s) ((fetchAddresses (launched s)).zip (tableBytes nbits w)) := rfl

end Sys2Proof.Machine
end

