-- ==== Sys2Proof/Laws/Ops.lean ====
section
/-! SUPPORT. One lemma for each shared operation, saying everything it can answer. -/

namespace Sys2Proof.Machine

/-! ### The mode -/

theorem mode_eq_real_iff (s : State) : mode s = .real ↔ s.cr0PE = false := by
  unfold mode; cases s.cr0PE <;> simp; split <;> simp

theorem mode_eq_v86_iff (s : State) : mode s = .v86 ↔ s.cr0PE = true ∧ getFlag .vm s.eflags = true := by
  unfold mode; cases s.cr0PE <;> simp

theorem mode_eq_prot_iff (s : State) : mode s = .prot ↔ s.cr0PE = true ∧ getFlag .vm s.eflags = false := by
  unfold mode; cases s.cr0PE <;> simp

/-! ### Flags -/

/-- A flag cleared: its bit is 0, every other bit is as before. -/
theorem getLsbD_clearFlag (f : Flag) (w : Word) (j : Nat) :
    (clearFlag f w).getLsbD j = (w.getLsbD j && decide (j ≠ flagPos f)) := by
  by_cases hj : j < 32
  · have hf : flagPos f < 32 := by cases f <;> decide
    simp only [clearFlag, flagMask, BitVec.getLsbD_and, BitVec.getLsbD_not, BitVec.getLsbD_twoPow, hj, hf]
    by_cases h : j = flagPos f <;> simp [h, hf, eq_comm]
  · simp [BitVec.getLsbD_of_ge _ _ (Nat.le_of_not_lt hj)]

/-- Flags cleared: their bits are 0, every other bit is as before. -/
theorem getLsbD_clearFlags (fs : List Flag) (w : Word) (j : Nat) :
    (clearFlags fs w).getLsbD j = (w.getLsbD j && fs.all (fun f => decide (j ≠ flagPos f))) := by
  unfold clearFlags
  induction fs generalizing w with
  | nil => simp
  | cons f fs ih => rw [List.foldl_cons, ih, getLsbD_clearFlag, List.all_cons, Bool.and_assoc]

/-- Clearing flags never sets a bit, and leaves the bits that are no flag of the list. -/
theorem clearFlags_bit_le (fs : List Flag) (w : Word) (j : Nat) (h : (clearFlags fs w).getLsbD j = true) :
    w.getLsbD j = true := by
  rw [getLsbD_clearFlags] at h; exact (Bool.and_eq_true _ _ ▸ h).1

/-- A flag set: its bit is 1, every other bit is as before. -/
theorem getLsbD_setFlag (f : Flag) (w : Word) (j : Nat) :
    (setFlag f w).getLsbD j = (w.getLsbD j || decide (j = flagPos f)) := by
  have hf : flagPos f < 32 := by cases f <;> decide
  simp only [setFlag, flagMask, BitVec.getLsbD_or, BitVec.getLsbD_twoPow, eq_comm]
  simp [hf]

/-! ### The virtual-8086 IOPL test -/

/-- Everything `v86Check` can answer. -/
theorem v86Check_cases (s : State) (kind : Kind) :
    (v86Check s kind = none) ∨ (mode s = .v86 ∧ kind = .cd ∧ s.cr4VME = true ∧
      v86Check s kind = some (.refuse .vmeRedirection)) ∨
    (mode s = .v86 ∧ iopl s.eflags < 3 ∧ (kind = .cd ∨ kind = .ce ∧ s.intoIoplSensitive = true) ∧
      v86Check s kind = some (.fault (.gp (some Config.gpV86ErrorCode)))) := by
  unfold v86Check
  split
  · next h =>
    split
    · next hv => exact .inr (.inl ⟨h.1, h.2, hv, rfl⟩)
    · split
      · next hi => exact .inr (.inr ⟨h.1, hi, .inl h.2, rfl⟩)
      · exact .inl rfl
  · split
    · next h =>
      split
      · next hi => exact .inr (.inr ⟨h.1, hi, .inr h.2, rfl⟩)
      · exact .inl rfl
    · exact .inl rfl

/-! ### Real-address-mode delivery -/

/-- Everything `deliverReal` can answer (60_exceptions.md R134). -/
theorem deliverReal_cases (s : State) (n : Nat) (ret : Word) :
    (insideIdt s Config.ivtEntryBytes n = false ∧ deliverReal s n ret = .fault (.gp none)) ∨
    (realFrameStraddles s = true ∧ deliverReal s n ret = .fault (.ss none)) ∨
    (overlapsEntry (realFrameCells s ret) (entryAddress s Config.ivtEntryBytes n) Config.ivtEntryBytes = true ∧
      deliverReal s n ret = .refused .frameOverlapsIdtEntry) ∨
    deliverReal s n ret = .next (enterReal s (entryAddress s Config.ivtEntryBytes n) ret) := by
  unfold deliverReal
  split
  · next h => exact .inl ⟨h, rfl⟩
  · split
    · next h => exact .inr (.inl ⟨h, rfl⟩)
    · split
      · next h => exact .inr (.inr (.inl ⟨h, rfl⟩))
      · exact .inr (.inr (.inr rfl))

/-- The only next state of a real-address-mode delivery. -/
theorem deliverReal_next {s t : State} {n : Nat} {ret : Word} (h : deliverReal s n ret = .next t) :
    t = enterReal s (entryAddress s Config.ivtEntryBytes n) ret := by
  rcases deliverReal_cases s n ret with ⟨-, e⟩ | ⟨-, e⟩ | ⟨-, e⟩ | e <;> rw [e] at h <;> cases h
  rfl

/-! ### Protected-mode delivery -/

/-- The gate checks answer the decoded entry, and only where all of them pass (60_exceptions.md R137). -/
theorem checkedGate_ok_iff (s : State) (n : Nat) (g : Gate) :
    checkedGate s n = .ok g ↔ g = idtGate s n ∧ GateAdmits s n := by
  unfold checkedGate GateAdmits idtGate insideIdt entryAddress Config.idtEntryBytes
  simp only [decide_eq_false_iff_not]
  split
  · next h => simp only [reduceCtorEq, false_iff]; rintro ⟨-, h', -⟩; exact h h'
  · next h =>
    have hl : 8 * n + 7 ≤ s.idtr.limit.toNat := Classical.byContradiction h
    split
    · next hk => simp only [reduceCtorEq, false_iff]; rintro ⟨-, -, h', -⟩; exact h' hk
    · next hk =>
      split
      · next hd => simp only [reduceCtorEq, false_iff]; rintro ⟨-, -, -, h', -⟩; exact BitVec.not_le.2 hd h'
      · next hd =>
        split
        · next hp => simp only [reduceCtorEq, false_iff]; rintro ⟨-, -, -, -, h'⟩; simp [hp] at h'
        · next hp =>
          simp only [Except.ok.injEq]
          exact ⟨fun e => ⟨e.symm, hl, hk, BitVec.not_lt.1 hd, by simpa using hp⟩, fun e => e.1.symm⟩

/-- Everything a failed gate check ends in: past the limit #GP; else the gate stop of #GP or #NP, each with error code
8*n + 2 (60_exceptions.md R137, R140). -/
theorem checkedGate_error {s : State} {n : Nat} {e : Stop} (h : checkedGate s n = .error e) :
    (insideIdt s Config.idtEntryBytes n = false ∧ e = .fault (.gp (some (idtErrorCode n)))) ∨
    (insideIdt s Config.idtEntryBytes n = true ∧ (e = gateStop s (.gp (some (idtErrorCode n))) ∨
      e = gateStop s (.np (some (idtErrorCode n))))) := by
  simp only [checkedGate] at h
  split at h
  · next hi => cases h; exact .inl ⟨hi, rfl⟩
  · next hi =>
    refine .inr ⟨by simpa using hi, ?_⟩
    split at h
    · cases h; exact .inl rfl
    · split at h
      · cases h; exact .inl rfl
      · split at h
        · cases h; exact .inr rfl
        · cases h

/-- With the parameters at their default a gate stop is the refusal (00_scope.md R4). -/
theorem gateStop_default {s : State} (h : parametersAtDefault s = true) (f : Fault) :
    gateStop s f = .refuse .parametersAtDefault := if_pos h

/-- With a parameter supplied a gate stop is the exception (60_exceptions.md R140). -/
theorem gateStop_supplied {s : State} (h : parametersAtDefault s = false) (f : Fault) : gateStop s f = .fault f :=
  if_neg (by simp [h])

/-- Nothing is supplied exactly where both tables are at their reset value. -/
theorem parametersAtDefault_iff (s : State) :
    parametersAtDefault s = true ↔ s.codeTable = none ∧ s.tssTable = [] := by
  simp [parametersAtDefault]

/-- What LoadCodeSegment answers: a level that is not above CPL (60_exceptions.md R137). -/
theorem checkCode_ok {sel : Half} {cpl : BitVec 2} {d : CodeDesc} {hid : Hidden} {level : BitVec 2}
    (h : checkCode sel cpl d = .ok (hid, level)) :
    d.isCode = true ∧ d.dpl ≤ cpl ∧ d.present = true ∧ hid = d.hid ∧
      level = (if d.conforming then cpl else d.dpl) := by
  unfold checkCode at h
  split at h
  · cases h
  · split at h
    · cases h
    · split at h
      · cases h
      · next h1 h2 h3 =>
        simp only [Except.ok.injEq, Prod.mk.injEq] at h
        exact ⟨by simpa using h1, BitVec.not_lt.1 h2, by simpa using h3, h.1.symm, h.2.symm⟩

/-- Where LoadCodeSegment answers, it was supplied, the selector is not null, and its table holds the descriptor. -/
theorem loadCodeSegment_ok {s : State} {sel : Half} {hid : Hidden} {level : BitVec 2}
    (h : loadCodeSegment s sel = .ok (hid, level)) :
    ∃ t d, s.codeTable = some t ∧ sel ≠ 0 ∧ findCode s.ldtr.sel sel t = some d ∧
      checkCode sel s.cpl d = .ok (hid, level) := by
  unfold loadCodeSegment at h
  split at h
  · cases h
  · next t ht =>
    split at h
    · cases h
    · next hs =>
      split at h
      · cases h
      · next d hd => exact ⟨t, d, ht, hs, hd, h⟩

/-- Where the handler's segment is found, LoadCodeSegment found it, and out of virtual-8086 mode its level is 0. -/
theorem handlerSegment_ok {s : State} {g : Gate} {hid : Hidden} {level : BitVec 2}
    (h : handlerSegment s g = .ok (hid, level)) :
    loadCodeSegment s g.selector = .ok (hid, level) ∧ (mode s = .v86 → level = 0) := by
  unfold handlerSegment at h
  split at h
  · cases h
  · next hd lv hl =>
    split at h
    · cases h
    · next hm =>
      simp only [Except.ok.injEq, Prod.mk.injEq] at h
      obtain ⟨rfl, rfl⟩ := h
      exact ⟨hl, fun hv => Classical.byContradiction fun hn => hm ⟨hv, hn⟩⟩

/-- The handler's level is never above CPL (60_exceptions.md R137). -/
theorem handlerSegment_level_le {s : State} {g : Gate} {hid : Hidden} {level : BitVec 2}
    (h : handlerSegment s g = .ok (hid, level)) : level ≤ s.cpl := by
  obtain ⟨t, d, -, -, -, hc⟩ := loadCodeSegment_ok (handlerSegment_ok h).1
  obtain ⟨-, hd, -, -, rfl⟩ := checkCode_ok hc
  split
  · exact BitVec.le_refl _
  · exact hd

/-- Everything a delivery through an interrupt or trap gate can answer. -/
theorem deliverThroughGate_cases (s : State) (n : Nat) (g : Gate) (ret : Word) :
    (∃ e, (handlerSegment s g = .error e ∨ ∃ hid level, handlerSegment s g = .ok (hid, level) ∧
        handlerStack s level = .error e) ∧ deliverThroughGate s n g ret = stopOutcome e) ∨
    (∃ hid level ss k, handlerSegment s g = .ok (hid, level) ∧ handlerStack s level = .ok (ss, k) ∧
      ((overlapsEntry (pushCells k (gateFrame s g.wide level ret)) (entryAddress s Config.idtEntryBytes n)
          Config.idtEntryBytes = true ∧ deliverThroughGate s n g ret = .refused .frameOverlapsIdtEntry) ∨
        deliverThroughGate s n g ret = .next (enterGate s g hid level ss k ret))) := by
  unfold deliverThroughGate
  split
  · next e he => exact .inl ⟨e, .inl he, rfl⟩
  · next hid level hs =>
    split
    · next e he => exact .inl ⟨e, .inr ⟨hid, level, hs, he⟩, rfl⟩
    · next ss k hk =>
      refine .inr ⟨hid, level, ss, k, hs, hk, ?_⟩
      split
      · next ho => exact .inl ⟨ho, rfl⟩
      · exact .inr rfl

/-- Everything `taskSwitch` can answer (60_exceptions.md R138). -/
theorem taskSwitch_cases (s : State) (sel : Half) (ret : Word) :
    ((findTss sel s.tssTable = none ∨ findTss s.tr.sel s.tssTable = none) ∧
      taskSwitch s sel ret = .refused .taskSwitchNotSupplied) ∨
    ∃ t old, findTss sel s.tssTable = some t ∧ findTss s.tr.sel s.tssTable = some old ∧
      ((∃ f, t.raises = some f ∧ taskSwitch s sel ret = .fault f) ∨
        (t.raises = none ∧ taskSwitch s sel ret = .next (enterTask s sel t ret))) := by
  unfold taskSwitch
  cases h1 : findTss sel s.tssTable with
  | none => exact .inl ⟨.inl rfl, rfl⟩
  | some t =>
    cases h2 : findTss s.tr.sel s.tssTable with
    | none => exact .inl ⟨.inr rfl, rfl⟩
    | some old =>
      refine .inr ⟨t, old, rfl, rfl, ?_⟩
      cases hr : t.raises with
      | none => exact .inr ⟨rfl, by simp [hr]⟩
      | some f => exact .inl ⟨f, rfl, by simp [hr]⟩

/-- A task state segment looked up after a change: the change, where it is the one changed. -/
theorem findTss_updateTss (sel sel' : Half) (f : Tss → Tss) (t : List TssEntry) :
    findTss sel (updateTss sel' f t) = if sel = sel' then (findTss sel t).map f else findTss sel t := by
  induction t with
  | nil => simp [findTss, updateTss]
  | cons e t ih =>
    simp only [findTss, updateTss] at *
    rw [List.map_cons, List.find?_cons, List.find?_cons]
    by_cases h : e.sel = sel' <;> by_cases h2 : sel = sel' <;> by_cases h3 : e.sel = sel <;> simp_all

theorem stopOutcome_ne_next (e : Stop) (t : State) : stopOutcome e ≠ .next t := by
  cases e <;> simp [stopOutcome]

/-- The next states of a protected-mode delivery: the new task, or the handler of an interrupt or trap gate. -/
theorem deliverProtected_next {s t : State} {n : Nat} {kind : Kind} {ret : Word}
    (h : deliverProtected s n kind ret = .next t) :
    GateAdmits s n ∧
    (((idtGate s n).kind = .task ∧ ∃ tss old, findTss (idtGate s n).selector s.tssTable = some tss ∧
        findTss s.tr.sel s.tssTable = some old ∧ t = enterTask s (idtGate s n).selector tss ret) ∨
      ((idtGate s n).kind ≠ .task ∧ ∃ hid level ss k, handlerSegment s (idtGate s n) = .ok (hid, level) ∧
        handlerStack s level = .ok (ss, k) ∧ t = enterGate s (idtGate s n) hid level ss k ret)) := by
  unfold deliverProtected at h
  split at h
  · exact absurd h (stopOutcome_ne_next _ _)
  · next g hg =>
    obtain ⟨rfl, hadm⟩ := (checkedGate_ok_iff s n g).1 hg
    refine ⟨hadm, ?_⟩
    split at h
    · next hk =>
      refine .inl ⟨hk, ?_⟩
      rcases taskSwitch_cases s (idtGate s n).selector ret with ⟨-, e⟩ | ⟨tss, old, h1, h2, ⟨f, -, e⟩ | ⟨-, e⟩⟩ <;>
        rw [e] at h <;> cases h
      exact ⟨tss, old, h1, h2, rfl⟩
    · next hk =>
      refine .inr ⟨hk, ?_⟩
      rcases deliverThroughGate_cases s n (idtGate s n) ret with
        ⟨e, -, he⟩ | ⟨hid, level, ss, k, h1, h2, ⟨-, he⟩ | he⟩ <;> rw [he] at h
      · exact absurd h (stopOutcome_ne_next _ _)
      · cases h
      · cases h; exact ⟨hid, level, ss, k, h1, h2, rfl⟩

/-! ### Taking an interrupt -/

/-- The next states of `deliver`, by mode (60_exceptions.md R133). -/
theorem deliver_next {s t : State} {n : Nat} {kind : Kind} {ret : Word} (h : deliver s n kind ret = .next t) :
    (mode s = .real ∧ t = enterReal s (entryAddress s Config.ivtEntryBytes n) ret) ∨
    (mode s ≠ .real ∧ deliverProtected s n kind ret = .next t) := by
  unfold deliver at h
  split at h
  · next hm => exact .inl ⟨hm, deliverReal_next h⟩
  · next hm => exact .inr ⟨by simp [hm], h⟩
  · next hm => exact .inr ⟨by simp [hm], h⟩

/-- The delivery an instruction's meaning is, where it reaches one (40_int.md R111 to R113, R116). -/
theorem exec_of_delivers {i : Instr} {s : State} {n : Nat} {ret : Word} (h : Delivers i s n ret) :
    exec i s = deliver s n (instrKind i) ret := by
  cases i with
  | int3 => obtain ⟨rfl, rfl⟩ := h; rfl
  | intImm8 ib =>
    obtain ⟨rfl, rfl, hv⟩ := h
    show execIntImm8 ib s = _
    unfold execIntImm8
    rcases v86Check_cases s .cd with e | ⟨hm, -, hvme, e⟩ | ⟨hm, hi, -, e⟩
    · rw [e]; rfl
    · rw [(hv hm).1] at hvme; cases hvme
    · rw [(hv hm).2] at hi; exact absurd hi (by decide)
  | into =>
    obtain ⟨rfl, rfl, ho, hv⟩ := h
    show execInto s = _
    unfold execInto
    rw [if_neg (by simp [ho])]
    rcases v86Check_cases s .ce with e | ⟨-, hk, -, -⟩ | ⟨hm, hi, hk, e⟩
    · rw [e]; rfl
    · cases hk
    · rcases hk with hk | ⟨-, hs⟩
      · cases hk
      · rw [hv hm hs] at hi; exact absurd hi (by decide)

/-- Everything that leads to a next state: INTO with OF = 0, or a delivery. -/
theorem exec_next {i : Instr} {s t : State} (h : exec i s = .next t) :
    (i = .into ∧ getFlag .ofl s.eflags = false ∧ t = { s with eip := nextOffset s 1 }) ∨
    ∃ n ret, Delivers i s n ret ∧ deliver s n (instrKind i) ret = .next t := by
  have three : ∀ x : BitVec 2, ¬ x < 3 → x = 3 := by decide
  cases i with
  | int3 => exact .inr ⟨3, nextOffset s 1, ⟨rfl, rfl⟩, h⟩
  | intImm8 ib =>
    refine .inr ⟨ib.toNat, nextOffset s 2, ⟨rfl, rfl, ?_⟩, ?_⟩ <;> change execIntImm8 ib s = _ at h <;>
      unfold execIntImm8 at h <;> split at h
    · exact absurd h (stopOutcome_ne_next _ _)
    · next hv =>
      intro hm
      simp only [v86Check, hm, true_and, if_true] at hv
      split at hv
      · cases hv
      · next h1 =>
        split at hv
        · cases hv
        · next h2 => exact ⟨by simpa using h1, three _ h2⟩
    · exact absurd h (stopOutcome_ne_next _ _)
    · exact h
  | into =>
    change execInto s = _ at h
    unfold execInto at h
    split at h
    · next ho => cases h; exact .inl ⟨rfl, ho, rfl⟩
    · next ho =>
      have ho : getFlag .ofl s.eflags = true := by simpa using ho
      split at h
      · exact absurd h (stopOutcome_ne_next _ _)
      · next hv =>
        refine .inr ⟨4, nextOffset s 1, ⟨rfl, rfl, ho, fun hm hs => ?_⟩, h⟩
        simp only [v86Check, hm, hs, true_and, and_self, if_true, reduceCtorEq, if_false] at hv
        split at hv
        · cases hv
        · next h2 => exact three _ h2

/-! ### The launch, and one step -/

/-- The parts of the launch check. -/
theorem launchOk_iff (s : State) :
    launchOk s = true ↔ eflagsLaunchOk s = true ∧ modeLaunchOk s = true ∧ csLaunchOk s = true := by
  simp [launchOk, and_assoc]

/-- Launching changes no more than CS, so the mode stays. -/
@[simp] theorem mode_launched (s : State) : mode (launched s) = mode s := rfl

/-- What is launched is a launch state, if EFLAGS, CPL and EIP are as a launch state has them. -/
theorem launchOk_launched {s : State} (he : eflagsLaunchOk s = true) (hm : modeLaunchOk s = true) :
    launchOk (launched s) = true :=
  (launchOk_iff _).2 ⟨he, hm, by by_cases h : mode s = .real <;> simp [csLaunchOk, h]⟩

/-- The next states of a step: the meaning of the decoded instruction at a launch state. -/
theorem step_next {s t : State} (h : step s = .next t) :
    launchOk s = true ∧ ∃ i rest, decode (fetchBytes s) = .ok (i, rest) ∧ exec i s = .next t := by
  unfold step at h
  split at h
  · cases h
  · next hl =>
    refine ⟨by simpa using hl, ?_⟩
    split at h
    · next i rest hd => exact ⟨i, rest, hd, h⟩
    · cases h
    · cases h

end Sys2Proof.Machine
end

