-- ==== Sys2Proof/Laws/PerInstr.lean ====
section
/-! SUPPORT. Facts about every instruction as a term, one lemma for each constructor. -/

/-- The encoding has the length 30_encoding.md R91 gives, one or two bytes. -/
def Sys2Proof.Laws.EncodedLength.Statement (i : Sys2Proof.Instr) : Prop :=
  (Sys2Proof.encode i).length = Sys2Proof.instrLength i ∧ 1 ≤ Sys2Proof.instrLength i ∧
    Sys2Proof.instrLength i ≤ 2

theorem Sys2Proof.Laws.EncodedLength.int3 : Sys2Proof.Laws.EncodedLength.Statement .int3 :=
  ⟨rfl, by decide, by decide⟩

theorem Sys2Proof.Laws.EncodedLength.intImm8 (ib : Sys2Proof.Byte) :
    Sys2Proof.Laws.EncodedLength.Statement (.intImm8 ib) :=
  ⟨rfl, by show 1 ≤ 2; decide, by show 2 ≤ 2; decide⟩

theorem Sys2Proof.Laws.EncodedLength.into : Sys2Proof.Laws.EncodedLength.Statement .into :=
  ⟨rfl, by decide, by decide⟩
end

