-- ==== Sys2Proof/Laws/Stack.lean ====
section
/-! SUPPORT. The laws of the stack: how far pushes take the pointer, where their bytes lie, and that what was pushed reads
back (20_memory.md R70 to R73). -/

namespace Sys2Proof.Machine

/-! ### The two halves of a 32-bit register -/

theorem setWidth_append_half (a b : Half) : (a ++ b : Word).setWidth 16 = b := by
  apply BitVec.eq_of_getLsbD_eq
  intro j hj
  rw [BitVec.getLsbD_setWidth, BitVec.getLsbD_append]
  simp [hj]

theorem extractLsb'_append_half (a b : Half) : (a ++ b : Word).extractLsb' 16 16 = a := by
  apply BitVec.eq_of_getLsbD_eq
  intro j hj
  rw [BitVec.getLsbD_extractLsb', BitVec.getLsbD_append]
  simp [hj]

/-- Two words with equal halves are equal. -/
theorem word_ext_halves {x y : Word} (lo : x.setWidth 16 = y.setWidth 16)
    (hi : x.extractLsb' 16 16 = y.extractLsb' 16 16) : x = y := by
  apply BitVec.eq_of_getLsbD_eq
  intro j hj
  by_cases h : j < 16
  · have := congrArg (fun z => z.getLsbD j) lo
    simpa [BitVec.getLsbD_setWidth, h] using this
  · have := congrArg (fun z => z.getLsbD (j - 16)) hi
    simpa [show j - 16 < 16 by omega, show 16 + (j - 16) = j by omega] using this

/-! ### The stack pointer -/

@[simp] theorem stackDown_small_sp (e : Word) (c : Nat) :
    (stackDown false e c).setWidth 16 = e.setWidth 16 - BitVec.ofNat 16 c := by
  simp only [stackDown, Bool.false_eq_true, if_false, setWidth_append_half]

/-- ESP[31:16] is unchanged where SP is the pointer (20_memory.md R70). -/
@[simp] theorem stackDown_small_high (e : Word) (c : Nat) :
    (stackDown false e c).extractLsb' 16 16 = e.extractLsb' 16 16 := by
  simp only [stackDown, Bool.false_eq_true, if_false, extractLsb'_append_half]

@[simp] theorem stackUp_sp (e : Word) (c : Nat) : (stackUp e c).setWidth 16 = e.setWidth 16 + BitVec.ofNat 16 c := by
  simp only [stackUp, setWidth_append_half]

@[simp] theorem stackUp_high (e : Word) (c : Nat) : (stackUp e c).extractLsb' 16 16 = e.extractLsb' 16 16 := by
  simp only [stackUp, extractLsb'_append_half]

theorem stackDown_zero (big : Bool) (e : Word) : stackDown big e 0 = e := by
  cases big
  · exact word_ext_halves (by simp) (by simp)
  · simp [stackDown]

theorem stackDown_stackDown (big : Bool) (e : Word) (x y : Nat) :
    stackDown big (stackDown big e x) y = stackDown big e (x + y) := by
  cases big
  · refine word_ext_halves ?_ (by simp)
    rw [stackDown_small_sp, stackDown_small_sp, stackDown_small_sp, BitVec.sub_sub, BitVec.ofNat_add]
  · simp only [stackDown, if_true, BitVec.sub_sub, BitVec.ofNat_add]

/-- The bytes pushes take. -/
def slotsBytes (vs : List Slot) : Nat := (vs.map slotBytes).sum

theorem slotBytes_le (v : Slot) : slotBytes v ≤ 4 := by
  cases v
  · exact (by decide : 2 ≤ 4)
  · exact (by decide : 4 ≤ 4)

/-- Pushes leave the pointer as many bytes lower as they take. -/
theorem pushedAll_eq (k : Stack) (vs : List Slot) :
    pushedAll k vs = { k with esp := stackDown k.big k.esp (slotsBytes vs) } := by
  induction vs generalizing k with
  | nil => simp [pushedAll, slotsBytes, stackDown_zero]
  | cons v vs ih =>
    show pushedAll (pushed k v) vs = _
    rw [ih]
    simp only [pushed, stackDown_stackDown, slotsBytes, List.map_cons, List.sum_cons]

theorem pushCells_append (k : Stack) (p q : List Slot) :
    pushCells k (p ++ q) = pushCells k p ++ pushCells (pushedAll k p) q := by
  induction p generalizing k with
  | nil => rfl
  | cons v p ih =>
    show cellsAt _ _ ++ pushCells (pushed k v) (p ++ q) = (cellsAt _ _ ++ pushCells (pushed k v) p) ++ _
    rw [ih, List.append_assoc]
    rfl

/-! ### Where the bytes lie -/

theorem mem_cellsAt {a : Word} {bs : List Byte} {c : Word × Byte} (h : c ∈ cellsAt a bs) :
    ∃ j < bs.length, c.1 = a + BitVec.ofNat 32 j := by
  induction bs generalizing a with
  | nil => simp [cellsAt] at h
  | cons b bs ih =>
    rcases List.mem_cons.1 h with rfl | h
    · exact ⟨0, by simp, by simp⟩
    · obtain ⟨j, hj, e⟩ := ih h
      refine ⟨j + 1, by simpa using hj, ?_⟩
      rw [e, BitVec.add_assoc, Nat.add_comm j 1, BitVec.ofNat_add]
      rfl

theorem slotData_length (v : Slot) : (slotData v).length = slotBytes v := by cases v <;> rfl

/-- Every byte pushes store lies in the slot of one of the values pushed. -/
theorem mem_pushCells {k : Stack} {d : Nat} {q : List Slot} {c : Word × Byte}
    (h : c ∈ pushCells { k with esp := stackDown k.big k.esp d } q) :
    ∃ e w j, d + w ≤ e ∧ e ≤ d + slotsBytes q ∧ j < w ∧ w ≤ 4 ∧ c.1 = slotAt k e + BitVec.ofNat 32 j := by
  induction q generalizing d with
  | nil => simp [pushCells] at h
  | cons v q ih =>
    have hp : pushed { k with esp := stackDown k.big k.esp d } v =
        { k with esp := stackDown k.big k.esp (d + slotBytes v) } := by
      simp only [pushed, stackDown_stackDown]
    simp only [pushCells, hp, List.mem_append] at h
    have ht : slotsBytes (v :: q) = slotBytes v + slotsBytes q := by simp [slotsBytes]
    rcases h with h | h
    · obtain ⟨j, hj, e⟩ := mem_cellsAt h
      rw [slotData_length] at hj
      exact ⟨d + slotBytes v, slotBytes v, j, le_refl _, by omega, hj, slotBytes_le v, e⟩
    · obtain ⟨e, w, j, h1, h2, h3, h4, h5⟩ := ih h
      exact ⟨e, w, j, by omega, by omega, h3, h4, h5⟩

/-- A pointer of 16 bits taken `e` and `d` down, seen as naturals below 2^16. -/
theorem small_slots_apart {p d e i j : Nat} (hp : p < 65536) (hj : d + j < e) (hi : i < 4) (he : e ≤ 64) :
    (65536 - e + p) % 65536 + j ≠ (65536 - d + p) % 65536 + i := by
  have hx : (65536 - e + p) % 65536 = 65536 - e + p ∨ (65536 - e + p) % 65536 = p - e ∧ e ≤ p := by omega
  have hy : (65536 - d + p) % 65536 = 65536 - d + p ∨ (65536 - d + p) % 65536 = p - d ∧ d ≤ p := by omega
  omega

/-- Bytes of two slots are different bytes of memory: `e` deeper than `d`, within a frame. -/
theorem slotAt_ne (k : Stack) {d e i j : Nat} (hj : d + j < e) (hi : i < 4) (he : e ≤ 64) :
    slotAt k e + BitVec.ofNat 32 j ≠ slotAt k d + BitVec.ofNat 32 i := by
  obtain ⟨base, big, esp⟩ := k
  intro h
  cases big
  · simp only [slotAt, stackTop, Bool.false_eq_true, if_false, stackDown_small_sp, BitVec.add_assoc,
      BitVec.add_right_inj] at h
    have h := congrArg BitVec.toNat h
    have hp := (esp.setWidth 16).isLt
    have hx := ((esp.setWidth 16) - BitVec.ofNat 16 e).isLt
    have hy := ((esp.setWidth 16) - BitVec.ofNat 16 d).isLt
    rw [BitVec.toNat_add, BitVec.toNat_add, BitVec.toNat_setWidth_of_le (by decide),
      BitVec.toNat_setWidth_of_le (by decide), BitVec.toNat_ofNat, BitVec.toNat_ofNat,
      Nat.mod_eq_of_lt (a := j) (by omega), Nat.mod_eq_of_lt (a := i) (by omega),
      Nat.mod_eq_of_lt (by omega), Nat.mod_eq_of_lt (by omega), BitVec.toNat_sub, BitVec.toNat_sub,
      BitVec.toNat_ofNat, BitVec.toNat_ofNat, Nat.mod_eq_of_lt (a := e) (by omega),
      Nat.mod_eq_of_lt (a := d) (by omega)] at h
    exact small_slots_apart hp hj hi he h
  · simp only [slotAt, stackTop, if_true, stackDown, BitVec.sub_eq_add_neg, BitVec.add_assoc,
      BitVec.add_right_inj] at h
    have h := congrArg BitVec.toNat h
    rw [BitVec.toNat_add, BitVec.toNat_add, BitVec.toNat_neg, BitVec.toNat_neg, BitVec.toNat_ofNat,
      BitVec.toNat_ofNat, BitVec.toNat_ofNat, BitVec.toNat_ofNat, Nat.mod_eq_of_lt (a := j) (by omega),
      Nat.mod_eq_of_lt (a := i) (by omega), Nat.mod_eq_of_lt (a := e) (by omega),
      Nat.mod_eq_of_lt (a := d) (by omega)] at h
    omega

/-! ### What was pushed reads back -/

theorem writeCells_read_cellsAt (s : State) (before after : List (Word × Byte)) (a : Word) (bs : List Byte) (i : Nat)
    (hi : i < bs.length) (hl : bs.length ≤ 4) (hafter : ∀ c ∈ after, c.1 ≠ a + BitVec.ofNat 32 i) :
    (writeCells s (before ++ (cellsAt a bs ++ after))).read (a + BitVec.ofNat 32 i).toNat = bs[i] := by
  induction bs generalizing a before i with
  | nil => simp at hi
  | cons b bs ih =>
    have hlen : bs.length ≤ 3 := Nat.le_of_succ_le_succ hl
    cases i with
    | zero =>
      simp only [cellsAt, List.cons_append, BitVec.add_zero, List.getElem_cons_zero]
      refine writeCells_read_stored s before _ a b (fun c hc => ?_)
      rcases List.mem_append.1 hc with hc | hc
      · obtain ⟨j, hj, e⟩ := mem_cellsAt hc
        intro h
        have h := congrArg BitVec.toNat (e.symm.trans h)
        have := a.isLt
        simp only [BitVec.toNat_add, BitVec.toNat_ofNat] at h
        have h1 : (1 : Word).toNat = 1 := rfl
        omega
      · simpa using hafter c hc
    | succ i =>
      have e : a + BitVec.ofNat 32 (i + 1) = a + 1 + BitVec.ofNat 32 i := by
        rw [BitVec.add_assoc, Nat.add_comm i 1, BitVec.ofNat_add]
        rfl
      rw [e] at hafter ⊢
      simp only [cellsAt, List.cons_append, List.getElem_cons_succ]
      have := ih (before ++ [(a, b)]) (a + 1) i (by simpa using hi) (by omega) hafter
      simpa using this

/-- A value pushed among others reads back, byte by byte, in its slot. -/
theorem pushCells_read (s : State) (k : Stack) (p q : List Slot) (v : Slot) (i : Nat) (hi : i < (slotData v).length)
    (ht : slotsBytes (p ++ v :: q) ≤ 64) :
    (writeCells s (pushCells k (p ++ v :: q))).read
      (slotAt k (slotsBytes p + slotBytes v) + BitVec.ofNat 32 i).toNat = (slotData v)[i] := by
  have hlen := slotData_length v
  have hle := slotBytes_le v
  have hp : pushed { k with esp := stackDown k.big k.esp (slotsBytes p) } v =
      { k with esp := stackDown k.big k.esp (slotsBytes p + slotBytes v) } := by
    simp only [pushed, stackDown_stackDown]
  rw [pushCells_append, pushedAll_eq]
  simp only [pushCells, hp]
  refine writeCells_read_cellsAt s _ _ (slotAt k (slotsBytes p + slotBytes v)) (slotData v) i hi (by omega) ?_
  intro c hc
  obtain ⟨e, w, j, h1, h2, h3, h4, h5⟩ := mem_pushCells hc
  have hsum : slotsBytes (p ++ v :: q) = slotsBytes p + slotBytes v + slotsBytes q := by
    simp [slotsBytes, Nat.add_assoc]
  rw [h5]
  exact slotAt_ne k (by omega) (by omega) (by omega)

theorem half_bytes (v : Half) : v.extractLsb' 8 8 ++ v.extractLsb' 0 8 = v := by
  apply BitVec.eq_of_getLsbD_eq
  intro j hj
  rw [BitVec.getLsbD_append]
  by_cases h : j < 8
  · simp [h]
  · simp [h, show j - 8 < 8 by omega, show 8 + (j - 8) = j by omega]

theorem word_low_bytes (v : Word) : v.extractLsb' 8 8 ++ v.extractLsb' 0 8 = v.extractLsb' 0 16 := by
  apply BitVec.eq_of_getLsbD_eq
  intro j hj
  rw [BitVec.getLsbD_append]
  by_cases h : j < 8
  · simp [h, hj]
  · simp [h, hj, show j - 8 < 8 by omega, show 8 + (j - 8) = j by omega]

theorem word_high_bytes (v : Word) : v.extractLsb' 24 8 ++ v.extractLsb' 16 8 = v.extractLsb' 16 16 := by
  apply BitVec.eq_of_getLsbD_eq
  intro j hj
  rw [BitVec.getLsbD_append]
  by_cases h : j < 8
  · simp [h, hj]
  · simp [h, hj, show j - 8 < 8 by omega, show 24 + (j - 8) = 16 + j by omega]

theorem word_halves (v : Word) : v.extractLsb' 16 16 ++ v.extractLsb' 0 16 = v := by
  apply BitVec.eq_of_getLsbD_eq
  intro j hj
  rw [BitVec.getLsbD_append]
  by_cases h : j < 16
  · simp [h]
  · simp [h, show j - 16 < 16 by omega, show 16 + (j - 16) = j by omega]

/-- A 16-bit value pushed among others reads back. -/
theorem read16_pushed {s t : State} {k : Stack} {vs p q : List Slot} {v : Half} {d : Nat}
    (hmem : t.mem = writeCells s (pushCells k vs)) (hv : vs = p ++ .half v :: q) (ht : slotsBytes vs ≤ 64)
    (hd : d = slotsBytes p + 2) : read16 t (slotAt k d) = v := by
  subst hv hd
  have b0 := pushCells_read s k p q (.half v) 0 (by simp [slotData, bytes16]) ht
  have b1 := pushCells_read s k p q (.half v) 1 (by simp [slotData, bytes16]) ht
  rw [← hmem] at b0 b1
  rw [BitVec.add_zero] at b0
  exact (congrArg₂ (fun x y : Byte => (x ++ y : Half)) b1 b0).trans (half_bytes v)

/-- The low half of a 32-bit value pushed among others reads back. -/
theorem read16_pushed_word {s t : State} {k : Stack} {vs p q : List Slot} {v : Word} {d : Nat}
    (hmem : t.mem = writeCells s (pushCells k vs)) (hv : vs = p ++ .word v :: q) (ht : slotsBytes vs ≤ 64)
    (hd : d = slotsBytes p + 4) : read16 t (slotAt k d) = v.extractLsb' 0 16 := by
  subst hv hd
  have b0 := pushCells_read s k p q (.word v) 0 (by simp [slotData, bytes32]) ht
  have b1 := pushCells_read s k p q (.word v) 1 (by simp [slotData, bytes32]) ht
  rw [← hmem] at b0 b1
  rw [BitVec.add_zero] at b0
  exact (congrArg₂ (fun x y : Byte => (x ++ y : Half)) b1 b0).trans (word_low_bytes v)

/-- A 32-bit value pushed among others reads back. -/
theorem read32_pushed {s t : State} {k : Stack} {vs p q : List Slot} {v : Word} {d : Nat}
    (hmem : t.mem = writeCells s (pushCells k vs)) (hv : vs = p ++ .word v :: q) (ht : slotsBytes vs ≤ 64)
    (hd : d = slotsBytes p + 4) : read32 t (slotAt k d) = v := by
  have lo := read16_pushed_word hmem hv ht hd
  subst hv hd
  have b2 := pushCells_read s k p q (.word v) 2 (by simp [slotData, bytes32]) ht
  have b3 := pushCells_read s k p q (.word v) 3 (by simp [slotData, bytes32]) ht
  rw [← hmem] at b2 b3
  have e3 : slotAt k (slotsBytes p + 4) + 2 + 1 = slotAt k (slotsBytes p + 4) + BitVec.ofNat 32 3 := by
    rw [BitVec.add_assoc]; rfl
  have hi : read16 t (slotAt k (slotsBytes p + 4) + 2) = v.extractLsb' 16 16 := by
    have b3 : t.mem.read (slotAt k (slotsBytes p + 4) + 2 + 1).toNat = v.extractLsb' 24 8 := by rw [e3]; exact b3
    exact (congrArg₂ (fun x y : Byte => (x ++ y : Half)) b3 b2).trans (word_high_bytes v)
  exact (congrArg₂ (fun x y : Half => (x ++ y : Word)) hi lo).trans (word_halves v)

end Sys2Proof.Machine
end

