-- ==== Sys2Proof/Tests/Slice0.lean ====
section
/-! SUPPORT. Tests. Expected results are the spec's own vectors (95_test_vectors.md, named at each test) or worked out by
hand from a rule; the witnesses meet the hypotheses of the statements they are named after. -/

namespace Sys2Proof.Tests

open Sys2Proof Sys2Proof.Machine

/-! ### Builders -/

/-- Whether a step answers a next state with a property. -/
def nextWith (o : Host.Outcome State Fault Refusal) (p : State → Bool) : Bool :=
  match o with
  | .next t => p t
  | _ => false

/-- Whether a step ends in that fault. -/
def faultsWith (o : Host.Outcome State Fault Refusal) (f : Fault) : Bool :=
  match o with
  | .fault g => decide (f = g)
  | _ => false

/-- Whether a step ends in that refusal. -/
def refusesWith (o : Host.Outcome State Fault Refusal) (r : Refusal) : Bool :=
  match o with
  | .refused q => decide (r = q)
  | _ => false

/-- A segment register in real-address mode. -/
def realSeg (sel : Half) : SegReg := loadSegReal SegReg.atReset sel

/-- A real-address-mode launch state as 95_test_vectors.md gives them: CS:EIP, SS:ESP, EFLAGS, IDTR.limit 3FF. -/
def realState (cs : Half) (eip : Word) (ss : Half) (esp eflags : Word) (mem : Memory) : State :=
  { State.reset with
    csAtReset := false, eip := eip, eflags := eflags, cs := realSeg cs, ss := realSeg ss, mem := mem,
    gpr := { State.reset.gpr with esp := esp }, idtr := { base := 0, limit := 0x3FF } }

/-- V1: `CD 21` at 0000:7C00. -/
def v1 : State := realState 0 0x7C00 0 0x7C00 0x202 [(0x85, 0x10), (0x87, 0x02), (0x7C00, 0xCD), (0x7C01, 0x21)]

/-- V2: `CC` at 1000:0010, TF, IF, ZF, PF set. -/
def v2 : State :=
  realState 0x1000 0x10 0x2000 0x100 0x346 [(0x0C, 0x34), (0x0D, 0x12), (0x0E, 0x78), (0x0F, 0x56), (0x10010, 0xCC)]

/-- V3 and V4: `CE` at 0000:0500, with the EFLAGS given. -/
def v3 (eflags : Word) : State := realState 0 0x500 0 0x7C00 eflags [(0x11, 0x30), (0x500, 0xCE)]

/-- The hidden part of a 32-bit segment of base 0. -/
def flat : Hidden := { base := 0, limit := 0xFFFFFFFF, access := 0x93, big := true }

/-- A code segment at level `dpl`. -/
def codeAt (dpl : BitVec 2) : CodeDesc :=
  { isCode := true, conforming := false, dpl := dpl, present := true, hid := flat }

/-- A register image with level-0 segments. -/
def image : Context :=
  { eip := 0x4000, eflags := 0x202, cpl := 0, cs := { sel := 8, hid := flat }, ss := { sel := 0x10, hid := flat },
    ds := SegReg.atReset, es := SegReg.atReset, fs := SegReg.atReset, gs := SegReg.atReset,
    gpr := State.reset.gpr, ldtr := SysSeg.atReset }

/-- A task state segment whose three stacks are the one given. -/
def tssWith (stack : StackImage) (raises : Option Fault) : Tss :=
  { ctx := image, backLink := 0, busy := false, base := 0, limit := 0x67, ring0 := stack, ring1 := stack,
    ring2 := stack, raises := raises }

/-- The level-0 stack of the tests. -/
def kernelStack : StackImage := .stack { sel := 0x10, hid := flat } 0x9000

/-- The 8 bytes of gate 3, little-endian, at 00100018, its access byte given (20_memory.md R68). -/
def gateAt (sel access : Byte) : Memory := [(0x100019, 0x10), (0x10001A, sel), (0x10001D, access)]

/-- A protected-mode state (virtual-8086 if EFLAGS.VM is set) with IDTR.base 00100000, IDTR.limit 7FF, the code
segments 8 (level 0), 18 (level 1), 20 (level 2), 28 (level 3) and the current task 30 (95_test_vectors.md Part 4). -/
def protState (eflags : Word) (cpl : BitVec 2) (mem : Memory) : State :=
  { State.reset with
    csAtReset := false, cr0PE := true, eflags := eflags, cpl := cpl, eip := 0x100,
    cs := { sel := 0x2B, hid := flat }, ss := { sel := 0x33, hid := flat },
    gpr := { State.reset.gpr with esp := 0x8000 }, idtr := { base := 0x100000, limit := 0x7FF },
    tr := { sel := 0x30, base := 0, limit := 0x67 }, mem := mem,
    codeTable := some [{ ldt := none, sel := 8, desc := codeAt 0 }, { ldt := none, sel := 0x18, desc := codeAt 1 },
      { ldt := none, sel := 0x20, desc := codeAt 2 }, { ldt := none, sel := 0x28, desc := codeAt 3 }],
    tssTable := [{ sel := 0x30, tss := tssWith kernelStack none }, { sel := 0x38, tss := tssWith kernelStack none },
      { sel := 0x40, tss := tssWith kernelStack (some (.ts (some 0x40))) }] }

/-- A level-3 protected-mode state with nothing supplied (00_scope.md R4, R5). -/
def atDefault (mem : Memory) : State := { protState 0x202 3 mem with codeTable := none, tssTable := [] }

/-! ### Decoding (30_encoding.md R91, R93; 95_test_vectors.md S1 to S4, E1 to E8) -/

theorem test_decode_int3 : decode [0xCC] = .ok (.int3, []) := by decide
theorem test_decode_int21 : decode [0xCD, 0x21] = .ok (.intImm8 0x21, []) := by decide
theorem test_decode_int3_two_bytes : decode [0xCD, 0x03] = .ok (.intImm8 3, []) := by decide
theorem test_decode_int255_unsigned : decode [0xCD, 0xFF] = .ok (.intImm8 255, []) ∧ immVector 0xFF = 255 := by decide
theorem test_decode_into : decode [0xCE] = .ok (.into, []) := by decide
theorem test_decode_refuses : decode [0xCF] = .error (.opcode 0xCF) ∧ decode [0xCB] = .error (.opcode 0xCB) ∧
    decode [0x66, 0xCD, 0x21] = .error (.opcode 0x66) ∧ decode [0xCD] = .error .truncated ∧
    decode [] = .error .truncated := by decide
theorem test_table_words : decodeTableWord 8 0xCC = some .int3 ∧ decodeTableWord 8 0xCD = some (.intImm8 0) ∧
    decodeTableWord 16 0x21CD = some (.intImm8 0x21) ∧ decodeTableWord 8 0xCE = some .into ∧
    decodeTableWord 8 0x90 = none := by decide

/-- 30_encoding.md R92: no operand value is ill-formed; the ends of the range. -/
theorem test_wellFormed : (Instr.intImm8 0).wellFormed = true ∧ (Instr.intImm8 255).wellFormed = true ∧
    Instr.int3.wellFormed = true ∧ Instr.into.wellFormed = true := by decide

/-! ### The three instructions, two theorems each (95_test_vectors.md Part 3 and Part 4, each one step) -/

/-- INT 3 goes on: V2; V6 and V11, where the stack pointer and the saved IP wrap; and, worked by hand from
60_exceptions.md R137 and R138, from level 3 to level 0, out of virtual-8086 mode in nine 32-bit slots, and through a
task gate. -/
theorem test_int3_next :
    nextWith (step v2) (fun t => t.cs.sel == 0x5678 && t.eip == 0x1234 && t.gpr.esp == 0xFA && t.eflags == 0x46 &&
      read16 t 0x200FE == 0x346 && read16 t 0x200FC == 0x1000 && read16 t 0x200FA == 0x11) = true ∧
    nextWith (step { v2 with
        eip := 0xFFFF, gpr := { v2.gpr with esp := 4 }, mem := v2.mem ++ [(0x1FFFF, 0xCC)] })
      (fun t => t.gpr.esp == 0xFFFE && read16 t 0x20002 == 0x346 && read16 t 0x20000 == 0x1000 &&
        read16 t 0x2FFFE == 0) = true ∧
    nextWith (exec .int3 (protState 0x3202 3 (gateAt 8 0xEE))) (fun t => t.eip == 0x1000 && t.cs.sel == 8 &&
      t.cpl == 0 && t.ss.sel == 0x10 && t.gpr.esp == 0x8FEC && t.eflags == 0x3002) = true ∧
    nextWith (exec .int3 (protState 0x20202 3 (gateAt 8 0xEE))) (fun t => t.cpl == 0 && t.gpr.esp == 0x8FDC &&
      t.eflags == 0x2 && t.ds.sel == 0 && t.ds.hid.base == 0) = true ∧
    nextWith (exec .int3 (protState 0x3202 3 (gateAt 0x38 0xE5))) (fun t => t.eip == 0x4000 && t.eflags == 0x4202 &&
      t.cpl == 0 && t.tr.sel == 0x38) = true := by decide

/-- INT 3 stops: V8 (straddle), V13 (overlap), B3 (nothing supplied), B13 (limit); and with nothing supplied an entry
that is no gate is a refusal (00_scope.md R4). -/
theorem test_int3_stops :
    faultsWith (step { v2 with gpr := { v2.gpr with esp := 3 } }) (.ss none) = true ∧
    refusesWith (step { v2 with ss := realSeg 0, gpr := { v2.gpr with esp := 0x10 } }) .frameOverlapsIdtEntry = true ∧
    refusesWith (exec .int3 { protState 0x20202 3 (gateAt 8 0xEE) with codeTable := none, tssTable := [] })
      .loadCodeSegmentNotSupplied = true ∧
    refusesWith (exec .int3 { protState 0x20202 3 (gateAt 8 0x9A) with codeTable := none, tssTable := [] })
      .parametersAtDefault = true ∧
    faultsWith (exec .int3 { protState 0x20202 3 [] with idtr := { base := 0x100000, limit := 0x17 } })
      (.gp (some 0x1A)) = true := by decide

/-- INT imm8 goes on: V1; V10, where only FLAGS[15:0] is pushed, AC is cleared and ID kept. -/
theorem test_intImm8_next :
    nextWith (step v1) (fun t => t.cs.sel == 0x200 && t.eip == 0x1000 && t.gpr.esp == 0x7BFA && t.eflags == 0x2 &&
      read16 t 0x7BFE == 0x202 && read16 t 0x7BFC == 0 && read16 t 0x7BFA == 0x7C02) = true ∧
    nextWith (step (realState 0x1000 0x10 0x2000 0x100 0x240302 [(0x203, 0xF0), (0x10010, 0xCD), (0x10011, 0x80)]))
      (fun t => t.cs.sel == 0xF000 && t.eip == 0 && t.eflags == 0x200002 && read16 t 0x200FE == 0x302) = true := by
  decide

/-- INT imm8 stops: V9 (b) and B11 (limit), V12 (fetch straddle), B1 (IOPL), B9 (VME). -/
theorem test_intImm8_stops :
    faultsWith (exec (.intImm8 0xFF) { v2 with idtr := { base := 0, limit := 0x3FE } }) (.gp none) = true ∧
    faultsWith (step { v2 with eip := 0xFFFF, mem := v2.mem ++ [(0x1FFFF, 0xCD)] }) (.gp none) = true ∧
    faultsWith (exec (.intImm8 0x21) (protState 0x22202 3 [])) (.gp (some 0)) = true ∧
    refusesWith (exec (.intImm8 0x21) { protState 0x23202 3 [] with cr4VME := true }) .vmeRedirection = true ∧
    faultsWith (exec (.intImm8 0x80) { protState 0x202 0 [] with idtr := { base := 0x100000, limit := 0x3FF } })
      (.gp (some 0x402)) = true := by decide

/-- V3: OF = 0. -/
theorem test_into_v3 : nextWith (step (v3 0x202)) (fun t => t == { v3 0x202 with eip := 0x501 }) = true := by decide

/-- V4: OF stays 1, and is 1 in the image. -/
theorem test_into_v4 : nextWith (step (v3 0xA02)) (fun t => t.cs.sel == 0 && t.eip == 0x3000 && t.gpr.esp == 0x7BFA &&
    t.eflags == 0x802 && read16 t 0x7BFE == 0xA02 && read16 t 0x7BFA == 0x501) = true := by decide

/-- A word placed after reset is launched and runs as the first instruction; the launch of the state after reset itself is
refused (70_reset_and_hazards.md R181), and so is any other opcode (E5). -/
theorem test_first_step :
    nextWith (step (State.reset.withFetchWord 8 0xCC)) (fun t => t.eip == 0) = true ∧
    nextWith (step (State.reset.withFetchWord 16 0x21CD)) (fun t => t.eip == 0) = true ∧
    nextWith (step (State.reset.withFetchWord 8 0xCE)) (fun t => t.eip == 0xFFF1) = true ∧
    refusesWith (step State.reset) .notALaunchState = true ∧
    refusesWith (step { v2 with mem := [(0x10010, 0xCF)] }) (.opcodeNotInScope 0xCF) = true := by decide

/-! ### Gates (95_test_vectors.md G1 to G6) and flags (60_exceptions.md R139) -/

theorem test_gate_g1 : decodeGate 0x00008E0000081000 = Gate.mk .interrupt true 8 0x1000 0 true := by decide
theorem test_gate_g2 : decodeGate 0xDEADEF000010BEEF = Gate.mk .trap true 0x10 0xDEADBEEF 3 true := by decide
theorem test_gate_g3_g5 : (decodeGate 0x0000850000280000).kind = .task ∧
    (decodeGate 0x0000850000280000).selector = 0x28 ∧ (decodeGate 0x00CF9A000000FFFF).kind = .invalid := by decide
theorem test_gate_g4_g6 : gateOffset (decodeGate 0xFFFF860000081234) = 0x1234 ∧
    (decodeGate 0x00000E0000081000).present = false := by decide
theorem test_flags_r139 : clearFlags realCleared 0x254B02 = 0x214802 ∧
    clearFlags interruptGateCleared 0x274B02 = 0x240802 ∧ clearFlags trapGateCleared 0x274B02 = 0x240A02 := by decide

/-! ### The launch check: an ill-formed state for each of its conditions (10_state.md R28, R29; R181) -/

theorem test_launch_refuses : launchOk v1 = true ∧ launchOk { v1 with eflags := 0x200 } = false ∧
    launchOk { v1 with eflags := 0x20A } = false ∧ launchOk { v1 with eflags := 0x400202 } = false ∧
    launchOk { v1 with eflags := 0x20202 } = false ∧ launchOk { v1 with cpl := 3 } = false ∧
    launchOk { v1 with eip := 0x10000 } = false ∧ launchOk { v1 with csAtReset := true } = false ∧
    launchOk State.reset = false ∧ launchOk (launched State.reset) = true ∧ launchOk (protState 0x20202 0 []) = false ∧
    launchOk (protState 0x20202 3 []) = true ∧ launchOk { protState 0x20202 3 [] with eip := 0x10000 } = false := by
  decide

/-! ### Witnesses: states that meet the hypotheses of the statements -/

theorem witness_DecodeExactlyInvertsEncode : (Instr.intImm8 7).wellFormed = true := by decide

theorem witness_OtherOpcodesAreRefused : (0xCF : Byte) ≠ 0xCC ∧ (0xCF : Byte) ≠ 0xCD ∧ (0xCF : Byte) ≠ 0xCE ∧
    launchOk { v2 with mem := [(0x10010, 0xCF)] } = true ∧
    readByte { v2 with mem := [(0x10010, 0xCF)] } (lin v2 .cs v2.eip) = 0xCF := by decide

theorem witness_StepRunsDecodedInstruction :
    launchOk v1 = true ∧ decode (fetchBytes v1) = .ok (.intImm8 0x21, []) := by decide

theorem witness_FetchDecodesAtCsEip : launchOk v1 = true ∧ readByte v1 (lin v1 .cs v1.eip) = 0xCD ∧ ip v1 ≠ 0xFFFF ∧
    launchOk v2 = true ∧ readByte v2 (lin v2 .cs v2.eip) = 0xCC ∧
    launchOk (v3 0x202) = true ∧ readByte (v3 0x202) (lin (v3 0x202) .cs (v3 0x202).eip) = 0xCE ∧
    ip { v1 with eip := 0xFFFE } ≠ 0xFFFF := by decide

/-- `CD` at the last offset, in the state given. -/
def cdAtEnd (s : State) (eip : Word) : State :=
  { s with eip := eip, mem := [((lin s .cs eip).toNat, 0xCD)] }

theorem witness_StraddlingFetchFaults :
    (launchOk (cdAtEnd v2 0xFFFF) = true ∧ mode (cdAtEnd v2 0xFFFF) = .real ∧ ip (cdAtEnd v2 0xFFFF) = 0xFFFF ∧
      fetchBytes (cdAtEnd v2 0xFFFF) = [0xCD]) ∧
    (launchOk (cdAtEnd (protState 0x20202 3 []) 0xFFFF) = true ∧
      mode (cdAtEnd (protState 0x20202 3 []) 0xFFFF) = .v86 ∧
      fetchBytes (cdAtEnd (protState 0x20202 3 []) 0xFFFF) = [0xCD]) ∧
    (launchOk (cdAtEnd (protState 0x202 0 []) 0xFFFFFFFF) = true ∧
      mode (cdAtEnd (protState 0x202 0 []) 0xFFFFFFFF) = .prot ∧
      fetchBytes (cdAtEnd (protState 0x202 0 []) 0xFFFFFFFF) = [0xCD]) := by decide

/-- BreakpointOverFirstByte, and OnlyLaunchStatesStep on its other side (test_launch_refuses has both). -/
theorem witness_BreakpointOverFirstByte : launchOk v1 = true := by decide

theorem witness_LinearAddressRule : mode v1 = .real ∧ v1.csAtReset = false ∧ mode (protState 0x20202 3 []) = .v86 ∧
    mode (protState 0x202 0 []) = .prot ∧ mode State.reset = .real ∧ State.reset.csAtReset = true ∧
    (lin { v1 with ss := realSeg 0xFFFF } .ss 0xFFFF).toNat = 0x10FFEF := by decide

theorem witness_PushRule : (realStack v1).big = false ∧
    (pushed (realStack { v1 with gpr := { v1.gpr with esp := 0x12340000 } }) (.half 0)).esp = 0x1234FFFE ∧
    (Stack.mk 0 true 0).big = true ∧ (pushed (Stack.mk 0 true 0) (.word 0)).esp = 0xFFFFFFFC := by decide

/-- The three instructions reach their delivery in real-address mode (V1, V2, V4). -/
theorem witness_Delivers_real : Delivers (.intImm8 0x21) v1 0x21 (nextOffset v1 2) ∧
    Delivers .int3 v2 3 (nextOffset v2 1) ∧ Delivers .into (v3 0xA02) 4 (nextOffset (v3 0xA02) 1) ∧
    mode v1 = .real ∧ mode v2 = .real ∧ mode (v3 0xA02) = .real := by
  refine ⟨⟨rfl, rfl, ?_⟩, ⟨rfl, rfl⟩, ⟨rfl, rfl, ?_, ?_⟩, ?_, ?_, ?_⟩ <;> decide

/-- With witness_Delivers_real, all hypotheses of RealDeliveryRegisters, RealVectorLayout, RealDeliveryStack,
RealCompletesExactlyWhenSetUp and ReturnFrameUndoesRealDelivery, for each instruction. -/
theorem witness_RealBoot : RealBoot v1 0x21 ∧ RealBoot v2 3 ∧ RealBoot (v3 0xA02) 4 := by
  unfold RealBoot RealOverlap; decide

theorem witness_RealDeliveryFrame :
    nextWith (exec (.intImm8 0x21) v1) (fun _ => true) = true ∧ nextWith (exec .int3 v2) (fun _ => true) = true ∧
      nextWith (exec .into (v3 0xA02)) (fun _ => true) = true := by decide

theorem witness_IdtLimitFaults :
    (Delivers (.intImm8 0xFF) { v2 with idtr := { base := 0, limit := 0x3FE } } 255
        (nextOffset { v2 with idtr := { base := 0, limit := 0x3FE } } 2) ∧
      mode { v2 with idtr := { base := 0, limit := 0x3FE } } = .real ∧ 0x3FE < 4 * 255 + 3) ∧
    (Delivers .int3 { protState 0x202 0 [] with idtr := { base := 0, limit := 0x1E } } 3
        (nextOffset { protState 0x202 0 [] with idtr := { base := 0, limit := 0x1E } } 1) ∧
      mode { protState 0x202 0 [] with idtr := { base := 0, limit := 0x1E } } = .prot ∧ 0x1E < 8 * 3 + 7) := by
  refine ⟨⟨⟨rfl, rfl, ?_⟩, ?_, ?_⟩, ⟨rfl, rfl⟩, ?_, ?_⟩ <;> decide

theorem witness_RealStackWrapAndStraddle : 4 * 3 + 3 ≤ v2.idtr.limit.toNat ∧
    sp { v2 with gpr := { v2.gpr with esp := 1 } } = 1 ∧ sp { v2 with gpr := { v2.gpr with esp := 5 } } = 5 ∧
    sp { v2 with gpr := { v2.gpr with esp := 0x12340000 } } = 0 ∧
    sp { v2 with gpr := { v2.gpr with esp := 4 } } = 4 := by decide

/-- The stack of V13: the frame 0A to 0F meets the entry 0C to 0F. -/
def v13 : State := { v2 with ss := realSeg 0, gpr := { v2.gpr with esp := 0x10 } }

/-- A protected-mode state whose frame meets the gate: ESP just above the entry of vector 3. -/
def protOverlap : State :=
  { protState 0x202 0 (gateAt 8 0x8E) with gpr := { State.reset.gpr with esp := 0x100024 } }

theorem witness_FrameOverlapIsRefused :
    (mode v13 = .real ∧ Delivers .int3 v13 3 (nextOffset v13 1) ∧ 4 * 3 + 3 ≤ v13.idtr.limit.toNat ∧
      ¬(sp v13 = 1 ∨ sp v13 = 3 ∨ sp v13 = 5) ∧ RealOverlap v13 3) ∧
    (Delivers .int3 protOverlap 3 (nextOffset protOverlap 1) ∧ mode protOverlap ≠ .real ∧ GateAdmits protOverlap 3 ∧
      (idtGate protOverlap 3).kind ≠ .task ∧
      handlerSegment protOverlap (idtGate protOverlap 3) = .ok (flat, 0) ∧
      handlerStack protOverlap 0 = .ok (protOverlap.ss, { base := 0, big := true, esp := 0x100024 }) ∧
      ∃ c ∈ pushCells { base := 0, big := true, esp := 0x100024 }
        (gateFrame protOverlap (idtGate protOverlap 3).wide 0 (nextOffset protOverlap 1)), ∃ j < 8,
        c.1 = protOverlap.idtr.base + BitVec.ofNat 32 (8 * 3 + j)) := by
  refine ⟨⟨?_, ⟨rfl, rfl⟩, ?_, ?_, ?_⟩, ⟨rfl, rfl⟩, ?_, ?_, ?_, ?_, ?_, ?_⟩ <;>
    first | decide | (unfold RealOverlap; decide) | (unfold GateAdmits; decide)

theorem witness_IntoWithoutOverflow : (v3 0x202).eflags.getLsbD 11 = false := by decide

/-- V86IoplTest, and IntoIoplParameter: each of their clauses. -/
theorem witness_V86IoplTest : mode (protState 0x20202 3 []) = .v86 ∧
    mode { protState 0x20202 3 [] with cr4VME := true } = .v86 ∧
    (protState 0x22202 3 []).eflags.extractLsb' 12 2 < 3 ∧ (protState 0x23202 3 []).eflags.extractLsb' 12 2 = 3 ∧
    (protState 0x22A02 3 []).eflags.getLsbD 11 = true ∧ (protState 0x22A02 3 []).eflags.extractLsb' 12 2 < 3 ∧
    { protState 0x23A02 3 [] with intoIoplSensitive := true }.intoIoplSensitive = true ∧
    (protState 0x23A02 3 []).eflags.extractLsb' 12 2 = 3 := by decide

theorem witness_BreakpointIsExempt : mode v2 = .real ∧ mode (protState 0x202 0 []) = .prot ∧
    mode (protState 0x20202 3 []) = .v86 ∧
    nextWith (exec .int3 { protState 0x20202 3 (gateAt 8 0xEE) with cr4VME := true }) (fun t => t.cr4VME) = true := by
  decide

/-- Every instruction reaches its delivery in protected and in virtual-8086 mode. -/
theorem witness_Delivers_prot : Delivers .int3 (protState 0x202 0 []) 3 (nextOffset (protState 0x202 0 []) 1) ∧
    Delivers (.intImm8 3) (protState 0x23202 3 []) 3 (nextOffset (protState 0x23202 3 []) 2) ∧
    Delivers .into (protState 0x20A02 3 []) 4 (nextOffset (protState 0x20A02 3 []) 1) := by
  refine ⟨⟨rfl, rfl⟩, ⟨rfl, rfl, ?_⟩, ⟨rfl, rfl, ?_, ?_⟩⟩ <;> decide

/-- Each clause of GateChecksFault, with the tables supplied (protState) and, last, at the default parameters: then an
entry that is no gate, one with DPL 2 below CPL 3, and one not present. -/
theorem witness_GateChecksFault : 8 * 3 + 7 ≤ (protState 0x202 3 []).idtr.limit.toNat ∧
    (idtGate (protState 0x202 3 (gateAt 8 0x9A)) 3).kind = .invalid ∧
    ((idtGate (protState 0x202 3 (gateAt 8 0xCE)) 3).kind ≠ .invalid ∧
      (idtGate (protState 0x202 3 (gateAt 8 0xCE)) 3).dpl < 3) ∧
    ((idtGate (protState 0x202 3 (gateAt 8 0x6E)) 3).kind ≠ .invalid ∧
      3 ≤ (idtGate (protState 0x202 3 (gateAt 8 0x6E)) 3).dpl ∧
      (idtGate (protState 0x202 3 (gateAt 8 0x6E)) 3).present = false) ∧
    ¬((protState 0x202 3 []).codeTable = none ∧ (protState 0x202 3 []).tssTable = []) ∧
    (idtGate (atDefault (gateAt 8 0x9A)) 3).kind = .invalid ∧
    (idtGate (atDefault (gateAt 8 0xCE)) 3).dpl < (atDefault (gateAt 8 0xCE)).cpl ∧
    (idtGate (atDefault (gateAt 8 0x6E)) 3).present = false := by decide

/-- DefaultParametersRefuse, and the last clause of GateChecksFault, for each instruction; and each kind of entry is
refused. -/
theorem witness_DefaultParametersRefuse :
    Delivers .int3 (atDefault []) 3 (nextOffset (atDefault []) 1) ∧
    Delivers (.intImm8 255) (atDefault []) 255 (nextOffset (atDefault []) 2) ∧
    Delivers .into { atDefault [] with eflags := 0xA02 } 4 (nextOffset { atDefault [] with eflags := 0xA02 } 1) ∧
    mode (atDefault []) = .prot ∧ 8 * 255 + 7 ≤ (atDefault []).idtr.limit.toNat ∧
    (atDefault []).codeTable = none ∧ (atDefault []).tssTable = [] ∧
    refusesWith (exec .int3 (atDefault (gateAt 8 0xCE))) .parametersAtDefault = true ∧
    refusesWith (exec .int3 (atDefault (gateAt 8 0xEE))) .loadCodeSegmentNotSupplied = true ∧
    refusesWith (exec .int3 (atDefault (gateAt 8 0xE5))) .taskSwitchNotSupplied = true := by
  refine ⟨⟨rfl, rfl⟩, ⟨rfl, rfl, ?_⟩, ⟨rfl, rfl, ?_, ?_⟩, ?_, ?_, ?_, ?_, ?_, ?_, ?_⟩ <;> decide

/-- ResetLaunchIsRefused: a state other than the reset one with CS not loaded. -/
theorem witness_ResetLaunchIsRefused : mode { v1 with csAtReset := true } = .real ∧
    { v1 with csAtReset := true }.csAtReset = true := by decide

/-- A level-3 state whose gate 3 leads to code segment 8, with the descriptor given. -/
def withCode (eflags : Word) (d : CodeDesc) : State :=
  { protState eflags 3 (gateAt 8 0xEE) with codeTable := some [{ ldt := none, sel := 8, desc := d }] }

theorem witness_CodeSegmentChecksStop :
    (GateAdmits (withCode 0x202 (codeAt 0)) 3 ∧ (idtGate (withCode 0x202 (codeAt 0)) 3).kind ≠ .task ∧
      (idtGate (withCode 0x202 (codeAt 0)) 3).selector = 8 ∧
      findCode 0 8 [{ ldt := none, sel := 8, desc := codeAt 0 }] = some (codeAt 0) ∧
      findCode 0 0x48 [{ ldt := none, sel := 8, desc := codeAt 0 }] = none) ∧
    ((idtGate (protState 0x202 3 (gateAt 0 0xEE)) 3).selector = 0) ∧
    { codeAt 0 with isCode := false }.isCode = false ∧ (protState 0x202 0 (gateAt 8 0xEE)).cpl < (codeAt 3).dpl ∧
    { codeAt 0 with present := false }.present = false ∧
    (mode (withCode 0x20202 (codeAt 1)) = .v86 ∧ (codeAt 1).dpl ≤ (withCode 0x20202 (codeAt 1)).cpl ∧
      (codeAt 1).dpl ≠ 0) := by
  unfold GateAdmits; decide

/-- A level-3 state whose gate 3 leads to the code segment with selector `sel`, and whose TSS raises #TS. -/
def stackRaises (sel : Byte) : State :=
  { protState 0x202 3 (gateAt sel 0xEE) with
    tssTable := [{ sel := 0x30, tss := tssWith (.raises (.ts (some 0x30))) none }] }

theorem witness_StackSwitchStops :
    (GateAdmits (stackRaises 8) 3 ∧ handlerSegment (stackRaises 8) (idtGate (stackRaises 8) 3) = .ok (flat, 0)) ∧
    (GateAdmits (stackRaises 0x18) 3 ∧
      handlerSegment (stackRaises 0x18) (idtGate (stackRaises 0x18) 3) = .ok (flat, 1)) ∧
    (GateAdmits (stackRaises 0x20) 3 ∧
      handlerSegment (stackRaises 0x20) (idtGate (stackRaises 0x20) 3) = .ok (flat, 2)) ∧
    findTss 0x30 (stackRaises 8).tssTable = some (tssWith (.raises (.ts (some 0x30))) none) ∧
    findTss 0x30 [] = none ∧ (0 : BitVec 2) < 3 ∧ (2 : BitVec 2) < 3 := by
  unfold GateAdmits; decide

theorem witness_TaskGateDelivery :
    (GateAdmits (protState 0x202 3 (gateAt 0x38 0xE5)) 3 ∧
      (idtGate (protState 0x202 3 (gateAt 0x38 0xE5)) 3).kind = .task) ∧
    findTss 0x38 (protState 0x202 3 []).tssTable = some (tssWith kernelStack none) ∧
    findTss 0x30 (protState 0x202 3 []).tssTable = some (tssWith kernelStack none) ∧
    findTss 0x40 (protState 0x202 3 []).tssTable = some (tssWith kernelStack (some (.ts (some 0x40)))) ∧
    findTss 0x48 (protState 0x202 3 []).tssTable = none ∧ (0x38 : Half) ≠ 0x30 ∧
    (GateAdmits (protState 0x202 3 (gateAt 0x30 0xE5)) 3 ∧
      (idtGate (protState 0x202 3 (gateAt 0x30 0xE5)) 3).kind = .task ∧
      (idtGate (protState 0x202 3 (gateAt 0x30 0xE5)) 3).selector = (protState 0x202 3 []).tr.sel ∧
      nextWith (exec .int3 (protState 0x202 3 (gateAt 0x30 0xE5))) (fun t => t.tr.sel == 0x30) = true) := by
  unfold GateAdmits; decide

/-- A frame on a stack of base 0 well below the IDT has no byte in the entry of vector 3. -/
theorem frame_apart (esp : Word) (vs : List Slot) (h : esp = 0x8000 ∨ esp = 0x9000) (hv : slotsBytes vs ≤ 64) :
    ∀ c ∈ pushCells { base := 0, big := true, esp := esp } vs, ∀ j < 8,
      c.1 ≠ (0x100000 : Word) + BitVec.ofNat 32 (8 * 3 + j) := by
  intro c hc j hj heq
  obtain ⟨e, w, i, he, he', hi, hw, hce⟩ := mem_pushCells (k := { base := 0, big := true, esp := esp }) (d := 0)
    (by simpa [stackDown] using hc)
  rw [heq] at hce
  simp only [slotAt, stackTop, stackDown, if_true] at hce
  rcases h with rfl | rfl <;> bv_omega

/-- The gate of vector 3 is ready, whatever the return offset: same level, 32-bit interrupt gate (8E) and 16-bit trap
gate (87). -/
theorem witness_GateReady_same_level (access : Byte) (ret : Word) (h : access = 0x8E ∨ access = 0x87) :
    GateReady (protState 0x202 0 (gateAt 8 access)) 3 ret flat 0
      (protState 0x202 0 (gateAt 8 access)).ss { base := 0, big := true, esp := 0x8000 } := by
  rcases h with rfl | rfl
  · exact ⟨by unfold GateAdmits; decide, by decide, by decide, by decide,
      frame_apart _ _ (.inl rfl) (show 12 ≤ 64 by decide)⟩
  · exact ⟨by unfold GateAdmits; decide, by decide, by decide, by decide,
      frame_apart _ _ (.inl rfl) (show 6 ≤ 64 by decide)⟩

/-- Ready, from level 3 to level 0, 32-bit interrupt gate (EE) and 16-bit trap gate (E7). -/
theorem witness_GateReady_level_change (access : Byte) (ret : Word) (h : access = 0xEE ∨ access = 0xE7) :
    GateReady (protState 0x202 3 (gateAt 8 access)) 3 ret flat 0
      { sel := 0x10, hid := flat } { base := 0, big := true, esp := 0x9000 } := by
  rcases h with rfl | rfl
  · exact ⟨by unfold GateAdmits; decide, by decide, by decide, by decide,
      frame_apart _ _ (.inr rfl) (show 20 ≤ 64 by decide)⟩
  · exact ⟨by unfold GateAdmits; decide, by decide, by decide, by decide,
      frame_apart _ _ (.inr rfl) (show 10 ≤ 64 by decide)⟩

/-- Ready, out of virtual-8086 mode with IOPL 3, the same two gates. -/
theorem witness_GateReady_v86 (access : Byte) (ret : Word) (h : access = 0xEE ∨ access = 0xE7) :
    mode (protState 0x23202 3 (gateAt 8 access)) = .v86 ∧ (0 : BitVec 2) < (3 : BitVec 2) ∧
    GateReady (protState 0x23202 3 (gateAt 8 access)) 3 ret flat 0
      { sel := 0x10, hid := flat } { base := 0, big := true, esp := 0x9000 } := by
  rcases h with rfl | rfl
  · exact ⟨by decide, by decide, by unfold GateAdmits; decide, by decide, by decide, by decide,
      frame_apart _ _ (.inr rfl) (show 36 ≤ 64 by decide)⟩
  · exact ⟨by decide, by decide, by unfold GateAdmits; decide, by decide, by decide, by decide,
      frame_apart _ _ (.inr rfl) (show 26 ≤ 64 by decide)⟩

/-- All hypotheses of GateFrameSameLevel, and of GateDeliveryRegisters and GateDeliveryFrame, together: both widths. -/
theorem witness_GateFrameSameLevel (access : Byte) (h : access = 0x8E ∨ access = 0x87) :
    Delivers .int3 (protState 0x202 0 (gateAt 8 access)) 3 (nextOffset (protState 0x202 0 (gateAt 8 access)) 1) ∧
    mode (protState 0x202 0 (gateAt 8 access)) ≠ .real ∧
    GateReady (protState 0x202 0 (gateAt 8 access)) 3 (nextOffset (protState 0x202 0 (gateAt 8 access)) 1) flat 0
      (protState 0x202 0 (gateAt 8 access)).ss { base := 0, big := true, esp := 0x8000 } ∧
    ¬((0 : BitVec 2) < (protState 0x202 0 (gateAt 8 access)).cpl) ∧
    (idtGate (protState 0x202 0 (gateAt 8 access)) 3).wide = decide (access = 0x8E) := by
  refine ⟨⟨rfl, rfl⟩, ?_, witness_GateReady_same_level access _ h, ?_, ?_⟩ <;> rcases h with rfl | rfl <;> decide

/-- All hypotheses of GateFrameLevelChange together, both widths; and of GateDeliveryRegisters with a level change. -/
theorem witness_GateFrameLevelChange (access : Byte) (h : access = 0xEE ∨ access = 0xE7) :
    Delivers .int3 (protState 0x202 3 (gateAt 8 access)) 3 (nextOffset (protState 0x202 3 (gateAt 8 access)) 1) ∧
    mode (protState 0x202 3 (gateAt 8 access)) = .prot ∧
    GateReady (protState 0x202 3 (gateAt 8 access)) 3 (nextOffset (protState 0x202 3 (gateAt 8 access)) 1) flat 0
      { sel := 0x10, hid := flat } { base := 0, big := true, esp := 0x9000 } ∧
    (0 : BitVec 2) < (protState 0x202 3 (gateAt 8 access)).cpl ∧
    (idtGate (protState 0x202 3 (gateAt 8 access)) 3).wide = decide (access = 0xEE) := by
  refine ⟨⟨rfl, rfl⟩, ?_, witness_GateReady_level_change access _ h, ?_, ?_⟩ <;> rcases h with rfl | rfl <;> decide

/-- All hypotheses of GateFrameFromV86 together, both widths, for `CD 03` at IOPL 3. -/
theorem witness_GateFrameFromV86 (access : Byte) (h : access = 0xEE ∨ access = 0xE7) :
    Delivers (.intImm8 3) (protState 0x23202 3 (gateAt 8 access)) 3
      (nextOffset (protState 0x23202 3 (gateAt 8 access)) 2) ∧
    mode (protState 0x23202 3 (gateAt 8 access)) = .v86 ∧
    GateReady (protState 0x23202 3 (gateAt 8 access)) 3 (nextOffset (protState 0x23202 3 (gateAt 8 access)) 2) flat 0
      { sel := 0x10, hid := flat } { base := 0, big := true, esp := 0x9000 } ∧
    (0 : BitVec 2) < (protState 0x23202 3 (gateAt 8 access)).cpl ∧
    (idtGate (protState 0x23202 3 (gateAt 8 access)) 3).wide = decide (access = 0xEE) := by
  obtain ⟨hm, -, hr⟩ := witness_GateReady_v86 access (nextOffset (protState 0x23202 3 (gateAt 8 access)) 2) h
  refine ⟨⟨rfl, rfl, fun _ => ?_⟩, hm, hr, ?_, ?_⟩ <;> rcases h with rfl | rfl <;> decide

/-- `CC` at CS:EIP in both modes, an interrupt gate for vector 3, a task gate for vector 4. -/
def withTaskGate (eflags : Word) : State :=
  protState eflags 3 ([(0x100, 0xCC), (0x3B0, 0xCC)] ++ gateAt 8 0xEE ++ [(0x100022, 0x38), (0x100025, 0xE5)])

/-- SystemRegistersAreNeverWritten: a step in protected and one in virtual-8086 mode whose decoded instruction delivers
through no task gate, although vector 4 is a task gate. -/
theorem witness_SystemRegistersAreNeverWritten (eflags : Word) (h : eflags = 0x202 ∨ eflags = 0x20202) :
    nextWith (step (withTaskGate eflags)) (fun _ => true) = true ∧
    decode (fetchBytes (withTaskGate eflags)) = .ok (.int3, [0]) ∧ mode (withTaskGate eflags) ≠ .real ∧
    (∀ n ret, Delivers .int3 (withTaskGate eflags) n ret → mode (withTaskGate eflags) ≠ .real →
      (idtGate (withTaskGate eflags) n).kind ≠ .task) ∧
    (idtGate (withTaskGate eflags) 4).kind = .task := by
  rcases h with rfl | rfl <;> refine ⟨by decide, by decide, by decide, ?_, by decide⟩ <;>
    · rintro n ret ⟨rfl, -⟩ -; decide

/-- NoFlagIsEverSet and PrivilegeIsNeverLost: a next state with no task gate, in each mode. -/
theorem witness_NoFlagIsEverSet :
    (nextWith (step v1) (fun _ => true) = true ∧
      ∀ i n ret, Delivers i v1 n ret → mode v1 ≠ .real → (idtGate v1 n).kind ≠ .task) ∧
    (nextWith (exec .int3 (protState 0x202 0 (gateAt 8 0x8E))) (fun _ => true) = true ∧
      ∀ n ret, Delivers .int3 (protState 0x202 0 (gateAt 8 0x8E)) n ret →
        (idtGate (protState 0x202 0 (gateAt 8 0x8E)) n).kind ≠ .task) ∧
    (nextWith (exec .int3 (protState 0x20202 3 (gateAt 8 0xEE))) (fun _ => true) = true ∧
      ∀ n ret, Delivers .int3 (protState 0x20202 3 (gateAt 8 0xEE)) n ret →
        (idtGate (protState 0x20202 3 (gateAt 8 0xEE)) n).kind ≠ .task) := by
  refine ⟨⟨by decide, fun i n ret _ h => absurd (by decide) h⟩, ⟨by decide, ?_⟩, ⟨by decide, ?_⟩⟩ <;>
    · rintro n ret ⟨rfl, -⟩; decide

/-- V86ProtectionFacts: each of its hypotheses is met. -/
theorem witness_V86ProtectionFacts : launchOk (protState 0x20202 3 (gateAt 8 0xEE)) = true ∧
    mode (protState 0x20202 3 (gateAt 8 0xEE)) = .v86 ∧ (protState 0x20202 3 (gateAt 8 0xEE)).cr4VME = false ∧
    (protState 0x20202 3 (gateAt 8 0xEE)).eflags.extractLsb' 12 2 < 3 ∧
    (idtGate (protState 0x20202 3 (gateAt 8 0xEE)) 3).kind ≠ .task ∧
    nextWith (exec .int3 (protState 0x20202 3 (gateAt 8 0xEE))) (fun _ => true) = true := by decide

/-- The invariant holds at states a step goes on from, in real-address, protected and virtual-8086 mode. -/
theorem witness_StepKeepsMachineInvariant : State.Inv v1 ∧ nextWith (step v1) (fun _ => true) = true ∧
    State.Inv (protState 0x20202 3 ([(0x2C0, 0xCC), (0x3B0, 0xCC)] ++ gateAt 8 0xEE)) ∧
    nextWith (step (protState 0x20202 3 ([(0x2C0, 0xCC), (0x3B0, 0xCC)] ++ gateAt 8 0xEE))) (fun _ => true) = true ∧
    State.Inv (protState 0x3202 3 ([(0x100, 0xCC)] ++ gateAt 0x38 0xE5)) ∧
    nextWith (step (protState 0x3202 3 ([(0x100, 0xCC)] ++ gateAt 0x38 0xE5))) (fun _ => true) = true := by
  unfold State.Inv; decide

end Sys2Proof.Tests
end

section
/-! PROOFS. The family 20_memory.md: the three protection facts of virtual-8086 mode (R81). -/

namespace Sys2Proof.Machine

/-! ### What virtual-8086 mode fixes -/

/-- 70_reset_and_hazards.md R181: a launch in virtual-8086 mode is at CPL 3. -/
theorem cpl_eq_three_of_launchOk {s : State} (hl : launchOk s = true) (hm : mode s = .v86) : s.cpl = 3 := by
  obtain ⟨-, hmode, -⟩ := (launchOk_iff s).1 hl
  simp only [modeLaunchOk, hm, decide_eq_true_eq] at hmode
  exact hmode.1

/-- 60_exceptions.md R133: taking an interrupt in virtual-8086 mode is the protected-mode delivery. -/
theorem deliver_of_v86 {s : State} (hm : mode s = .v86) (n : Nat) (kind : Kind) (ret : Word) :
    deliver s n kind ret = deliverProtected s n kind ret := by
  simp only [deliver, hm]

/-- 40_int.md R116: the IOPL test fails INT imm8 in virtual-8086 mode with VME off and IOPL below 3. -/
theorem v86Check_cd_of_iopl_lt {s : State} (hm : mode s = .v86) (hv : s.cr4VME = false) (hi : iopl s.eflags < 3) :
    v86Check s .cd = some (.fault (.gp (some Config.gpV86ErrorCode))) := by
  simp only [v86Check, hm, hv, hi, and_self, if_true, Bool.false_eq_true, if_false]

/-- INT imm8 ends as the virtual-8086 test does, where that test stops it (40_int.md R112). -/
theorem execIntImm8_of_v86Check {s : State} {stop : Stop} (h : v86Check s .cd = some stop) (ib : Byte) :
    execIntImm8 ib s = stopOutcome stop := by
  simp only [execIntImm8, h]

/-! ### Where a gate leads -/

/-- 60_exceptions.md R139: both gates that lead to a handler clear VM. -/
theorem vm_mem_gateCleared {kind : GateKind} (hv : kind ≠ .invalid) (ht : kind ≠ .task) : .vm ∈ gateCleared kind := by
  cases kind with
  | interrupt => decide
  | trap => decide
  | task => exact absurd rfl ht
  | invalid => exact absurd rfl hv

/-- A flag that is among those cleared reads 0 afterwards. -/
theorem getFlag_clearFlags_of_mem {f : Flag} {fs : List Flag} (h : f ∈ fs) (w : Word) :
    getFlag f (clearFlags fs w) = false := by
  have hall : fs.all (fun g => decide (flagPos f ≠ flagPos g)) = false :=
    List.all_eq_false.2 ⟨f, h, by simp⟩
  rw [getFlag, getLsbD_clearFlags, hall, Bool.and_false]

/-- The handler of an interrupt or trap gate runs in protected mode. -/
theorem mode_enterGate {s : State} {g : Gate} (hpe : s.cr0PE = true) (hv : g.kind ≠ .invalid) (ht : g.kind ≠ .task)
    (hid : Hidden) (level : BitVec 2) (ss : SegReg) (k : Stack) (ret : Word) :
    mode (enterGate s g hid level ss k ret) = .prot :=
  (mode_eq_prot_iff _).2 ⟨hpe, getFlag_clearFlags_of_mem (vm_mem_gateCleared hv ht) s.eflags⟩

/-- 60_exceptions.md R136, R137: a delivery out of virtual-8086 mode at CPL 3 that is executed, other than through a task
gate, went through a gate with DPL 3 to a handler at CPL 0 in protected mode. -/
theorem deliverProtected_next_of_v86 {s t : State} {n : Nat} {kind : Kind} {ret : Word} (hm : mode s = .v86)
    (hcpl : s.cpl = 3) (hk : (idtGate s n).kind ≠ .task) (h : deliverProtected s n kind ret = .next t) :
    (idtGate s n).dpl = 3 ∧ t.cpl = 0 ∧ mode t = .prot := by
  have eq_three : ∀ x : BitVec 2, 3 ≤ x → x = 3 := by decide
  obtain ⟨⟨-, hvalid, hdpl, -⟩, ⟨htask, -⟩ | ⟨-, hid, level, ss, k, hseg, -, rfl⟩⟩ := deliverProtected_next h
  · exact absurd htask hk
  · obtain ⟨-, hlevel⟩ := handlerSegment_ok hseg
    obtain ⟨hpe, -⟩ := (mode_eq_v86_iff s).1 hm
    exact ⟨eq_three _ (hcpl ▸ hdpl), hlevel hm, mode_enterGate hpe hvalid hk hid level ss k ret⟩

/-! ### The obligation -/

/-- Settles O41: (a) is the IOPL test of INT imm8, (b) is what `deliver` is in virtual-8086 mode, and (c) follows from
the gate and handler checks of the protected-mode delivery, CPL being 3 at the launch. -/
theorem v86ProtectionFacts : Obligations.V86ProtectionFacts := by
  unfold Obligations.V86ProtectionFacts
  intro s hl hm
  refine ⟨fun hv ib hi => ⟨_, execIntImm8_of_v86Check (v86Check_cd_of_iopl_lt hm hv hi) ib⟩,
    deliver_of_v86 hm 3 .cc (nextOffset s 1), fun i n ret t hd hk ht => ?_⟩
  rw [exec_of_delivers hd, deliver_of_v86 hm] at ht
  exact deliverProtected_next_of_v86 hm (cpl_eq_three_of_launchOk hl hm) hk ht

end Sys2Proof.Machine
end

section
/-! PROOFS. The family 30_encoding.md: the opcode map (R92, R93), decoding against encoding (R90 to R98), and CC written
over byte 0 (R99). -/

/-! ### The decoder, an equation for each encoding -/

namespace Sys2Proof

@[simp] theorem decode_cc (rest : List Byte) : decode (0xCC :: rest) = .ok (.int3, rest) := rfl

@[simp] theorem decode_cd (ib : Byte) (rest : List Byte) : decode (0xCD :: ib :: rest) = .ok (.intImm8 ib, rest) := rfl

@[simp] theorem decode_ce (rest : List Byte) : decode (0xCE :: rest) = .ok (.into, rest) := rfl

/-- An encoding decodes to its instruction, whatever follows it. -/
theorem decode_encode_append (i : Instr) (rest : List Byte) : decode (encode i ++ rest) = .ok (i, rest) := by
  cases i with
  | int3 => exact decode_cc rest
  | intImm8 ib => exact decode_cd ib rest
  | into => exact decode_ce rest

/-- The decoder takes off the front exactly the encoding of the instruction it reads. -/
theorem eq_encode_append_of_decode {bs rest : List Byte} {i : Instr} (h : decode bs = .ok (i, rest)) :
    bs = encode i ++ rest := by
  cases bs with
  | nil => cases h
  | cons b0 tail =>
    simp only [decode] at h
    split at h
    · next hcc => cases h; subst hcc; rfl
    · split at h
      · next hce => cases h; subst hce; rfl
      · split at h
        · next hcd =>
          subst hcd
          cases tail with
          | nil => cases h
          | cons ib tail => cases h; rfl
        · cases h

end Sys2Proof

/-! ### The immediate, a store to memory, the fetch and the step -/

namespace Sys2Proof.Machine

/-- 30_encoding.md R92: the immediate byte is unsigned. -/
theorem immVector_le (ib : Byte) : immVector ib ≤ 255 := Nat.le_of_lt_succ ib.isLt

/-- 20_memory.md R76: a byte just stored reads as stored. -/
theorem readByte_store_same (s : State) (a : Word) (b : Byte) :
    readByte { s with mem := s.mem.write a.toNat b } a = b := Memory.read_write_same s.mem a.toNat b

/-- A launch state is one whatever memory holds. -/
@[simp] theorem launchOk_setMem (s : State) (m : Memory) : launchOk { s with mem := m } = launchOk s := rfl

/-- Linear addresses do not depend on what memory holds. -/
@[simp] theorem lin_setMem (s : State) (m : Memory) (r : SegName) (off : Word) :
    lin { s with mem := m } r off = lin s r off := rfl

/-- The first byte fetched is the byte at CS:EIP, at the end of the offset range too (30_encoding.md R90, R98). -/
theorem fetchBytes_eq_cons (s : State) : ∃ rest, fetchBytes s = readByte s (lin s .cs s.eip) :: rest := by
  unfold fetchBytes fetchAddresses
  split
  · exact ⟨_, rfl⟩
  · exact ⟨_, rfl⟩

/-- 00_scope.md R8: the step from a launch state is the meaning of the decoded instruction. -/
theorem step_of_decode {s : State} {i : Instr} {rest : List Byte} (hl : launchOk s = true)
    (hd : decode (fetchBytes s) = .ok (i, rest)) : step s = exec i s := by
  simp only [step, hl, hd, Bool.true_eq_false, if_false]

/-- 30_encoding.md R98: CC at CS:EIP makes the step an INT 3. -/
theorem step_of_cc {s : State} (hl : launchOk s = true) (hb : readByte s (lin s .cs s.eip) = 0xCC) :
    step s = exec .int3 s := by
  obtain ⟨rest, hf⟩ := fetchBytes_eq_cons s
  exact step_of_decode (rest := rest) hl (by rw [hf, hb, decode_cc])

/-! ### The obligations -/

/-- Settles O3: an encoding decodes to its instruction, and the decoder's branches each take off exactly the encoding of
what they answer. -/
theorem decodeExactlyInvertsEncode : Obligations.DecodeExactlyInvertsEncode := by
  unfold Obligations.DecodeExactlyInvertsEncode
  intro i bs rest _
  constructor
  · exact eq_encode_append_of_decode
  · rintro rfl
    exact decode_encode_append i rest

/-- Settles O9: the store changes neither the launch check nor where the fetch reads, and its first byte is the CC. -/
theorem breakpointOverFirstByte : Obligations.BreakpointOverFirstByte := by
  unfold Obligations.BreakpointOverFirstByte
  intro s hl
  refine step_of_cc ?_ ?_
  · rw [launchOk_setMem, hl]
  · simp only [lin_setMem, readByte_store_same]

/-- Settles O2: an equation of the decoder for each encoding; encodings and vectors are the definitions' own. -/
theorem opcodeMap : Obligations.OpcodeMap := by
  unfold Obligations.OpcodeMap
  intro ib rest
  exact ⟨decode_cc rest, decode_ce rest, decode_cd ib rest, rfl, rfl, rfl, rfl, rfl, rfl, rfl, immVector_le ib, rfl⟩

end Sys2Proof.Machine
end

section
/-! PROOFS. The family 40_int.md: opcode CC is exempt from redirection and from the IOPL test (R117), and no instruction
sets a flag (R114). -/

namespace Sys2Proof.Machine

/-! ### Which flags an instruction may clear (40_int.md R114) -/

/-- The six flags the page says may be cleared (40_int.md R114). -/
def clearableFlags : List Flag := [.tf, .ifl, .nt, .rf, .vm, .ac]

/-- 60_exceptions.md R139, row 1, is among the six. -/
theorem realCleared_subset : realCleared ⊆ clearableFlags := by decide

/-- 60_exceptions.md R139, rows 2 and 3, are among the six. -/
theorem gateCleared_subset (kind : GateKind) : gateCleared kind ⊆ clearableFlags := by
  cases kind with
  | interrupt => decide
  | trap => decide
  | task => exact List.nil_subset _
  | invalid => exact List.nil_subset _

/-- A bit that is the position of no flag cleared is as before. -/
theorem getLsbD_clearFlags_of_ne {fs : List Flag} {j : Nat} (h : ∀ f ∈ fs, j ≠ flagPos f) (w : Word) :
    (clearFlags fs w).getLsbD j = w.getLsbD j := by
  have hall : fs.all (fun f => decide (j ≠ flagPos f)) = true :=
    List.all_eq_true.2 fun f hf => decide_eq_true (h f hf)
  rw [getLsbD_clearFlags, hall, Bool.and_true]

/-- The positions of the six flags (10_state.md R28). -/
theorem ne_flagPos_of_clearable {j : Nat} (h8 : j ≠ 8) (h9 : j ≠ 9) (h14 : j ≠ 14) (h16 : j ≠ 16) (h17 : j ≠ 17)
    (h18 : j ≠ 18) : ∀ f ∈ clearableFlags, j ≠ flagPos f := by
  simp [clearableFlags, flagPos, h8, h9, h14, h16, h17, h18]

/-- What becomes of EFLAGS where no task gate is used: an instruction that answers a next state has cleared some of the
six flags, and done nothing else to it. -/
theorem exec_eflags {i : Instr} {s t : State} (h : exec i s = .next t)
    (hgate : ∀ n ret, Delivers i s n ret → mode s ≠ .real → (idtGate s n).kind ≠ .task) :
    ∃ fs, fs ⊆ clearableFlags ∧ t.eflags = clearFlags fs s.eflags := by
  rcases exec_next h with ⟨-, -, rfl⟩ | ⟨n, ret, hd, hdel⟩
  · exact ⟨[], List.nil_subset _, rfl⟩
  · rcases deliver_next hdel with ⟨-, rfl⟩ | ⟨hm, hprot⟩
    · exact ⟨realCleared, realCleared_subset, enterReal_eflags _ _ _⟩
    · obtain ⟨-, ⟨htask, -⟩ | ⟨-, hid, level, ss, k, -, -, rfl⟩⟩ := deliverProtected_next hprot
      · exact absurd htask (hgate n ret hd hm)
      · exact ⟨_, gateCleared_subset _, enterGate_eflags _ _ _ _ _ _ _⟩

/-! ### CR4.VME in a delivery -/

/-- The state with CR4.VME at the given value. -/
def withVme (vme : Bool) (s : State) : State := { s with cr4VME := vme }

/-- An outcome with its next state, where it has one, changed. -/
def mapNext (f : State → State) : Host.Outcome State Fault Refusal → Host.Outcome State Fault Refusal
  | .next t => .next (f t)
  | .fault r => .fault r
  | .refused r => .refused r

@[simp] theorem mapNext_stopOutcome (f : State → State) (e : Stop) : mapNext f (stopOutcome e) = stopOutcome e := by
  cases e <;> rfl

theorem mapNext_eq_fault_iff (f : State → State) (o : Host.Outcome State Fault Refusal) (r : Fault) :
    mapNext f o = .fault r ↔ o = .fault r := by
  cases o <;> simp [mapNext]

theorem mode_withVme (vme : Bool) (s : State) : mode (withVme vme s) = mode s := rfl

theorem nextOffset_withVme (vme : Bool) (s : State) (len : Nat) :
    nextOffset (withVme vme s) len = nextOffset s len := rfl

theorem checkedGate_withVme (vme : Bool) (s : State) (n : Nat) : checkedGate (withVme vme s) n = checkedGate s n := rfl

theorem handlerSegment_withVme (vme : Bool) (s : State) (g : Gate) :
    handlerSegment (withVme vme s) g = handlerSegment s g := rfl

theorem handlerStack_withVme (vme : Bool) (s : State) (level : BitVec 2) :
    handlerStack (withVme vme s) level = handlerStack s level := rfl

theorem enterGate_withVme (vme : Bool) (s : State) (g : Gate) (hid : Hidden) (level : BitVec 2) (ss : SegReg)
    (k : Stack) (ret : Word) :
    enterGate (withVme vme s) g hid level ss k ret = withVme vme (enterGate s g hid level ss k ret) := rfl

theorem enterTask_withVme (vme : Bool) (s : State) (sel : Half) (t : Tss) (ret : Word) :
    enterTask (withVme vme s) sel t ret = withVme vme (enterTask s sel t ret) := rfl

@[simp] theorem withVme_tssTable (vme : Bool) (s : State) : (withVme vme s).tssTable = s.tssTable := rfl

@[simp] theorem withVme_tr (vme : Bool) (s : State) : (withVme vme s).tr = s.tr := rfl

/-- A task switch does not read CR4.VME (60_exceptions.md R138). -/
theorem taskSwitch_withVme (vme : Bool) (s : State) (sel : Half) (ret : Word) :
    taskSwitch (withVme vme s) sel ret = mapNext (withVme vme) (taskSwitch s sel ret) := by
  simp only [taskSwitch, withVme_tssTable, withVme_tr, enterTask_withVme]
  split
  · split
    · rfl
    · rfl
  · rfl

/-- A delivery through an interrupt or trap gate does not read CR4.VME (60_exceptions.md R137). -/
theorem deliverThroughGate_withVme (vme : Bool) (s : State) (n : Nat) (g : Gate) (ret : Word) :
    deliverThroughGate (withVme vme s) n g ret = mapNext (withVme vme) (deliverThroughGate s n g ret) := by
  simp only [deliverThroughGate, handlerSegment_withVme]
  split
  · exact (mapNext_stopOutcome _ _).symm
  · simp only [handlerStack_withVme]
    split
    · exact (mapNext_stopOutcome _ _).symm
    · rw [apply_ite (mapNext (withVme vme))]
      rfl

/-- The protected-mode delivery does not read CR4.VME (60_exceptions.md R137). -/
theorem deliverProtected_withVme (vme : Bool) (s : State) (n : Nat) (kind : Kind) (ret : Word) :
    deliverProtected (withVme vme s) n kind ret = mapNext (withVme vme) (deliverProtected s n kind ret) := by
  simp only [deliverProtected, checkedGate_withVme]
  split
  · exact (mapNext_stopOutcome _ _).symm
  · rw [apply_ite (mapNext (withVme vme)), taskSwitch_withVme, deliverThroughGate_withVme]

/-! ### INT 3 by mode (40_int.md R111, R117) -/

/-- INT 3 is always the delivery of vector 3. -/
theorem exec_int3 (s : State) : exec .int3 s = deliver s 3 .cc (nextOffset s 1) :=
  exec_of_delivers ⟨rfl, rfl⟩

/-- Outside virtual-8086 mode there is no IOPL test, and `CD ib` is always the delivery of vector `ib`. -/
theorem exec_intImm8_of_not_v86 {s : State} (hm : mode s ≠ .v86) (ib : Byte) :
    exec (.intImm8 ib) s = deliver s ib.toNat .cd (nextOffset s 2) :=
  exec_of_delivers ⟨rfl, rfl, fun hv => absurd hv hm⟩

/-- In virtual-8086 mode CR4.VME changes nothing of INT 3's outcome but its own value in the next state. -/
theorem exec_int3_withVme {s : State} (hm : mode s = .v86) (vme : Bool) :
    exec .int3 (withVme vme s) = mapNext (withVme vme) (exec .int3 s) := by
  rw [exec_int3, exec_int3, deliver_of_v86 hm, deliver_of_v86 (mode_withVme vme s ▸ hm), nextOffset_withVme,
    deliverProtected_withVme]

/-- 60_exceptions.md R133: taking an interrupt in protected mode is the protected-mode delivery. -/
theorem deliver_of_prot {s : State} (hm : mode s = .prot) (n : Nat) (kind : Kind) (ret : Word) :
    deliver s n kind ret = deliverProtected s n kind ret := by
  simp only [deliver, hm]

/-- 60_exceptions.md R133: taking an interrupt in real-address mode is the real-address-mode delivery. -/
theorem deliver_of_real {s : State} (hm : mode s = .real) (n : Nat) (kind : Kind) (ret : Word) :
    deliver s n kind ret = deliverReal s n ret := by
  simp only [deliver, hm]

/-! ### The obligations -/

/-- Settles O28: `exec_int3` is the delivery in every mode, which by `exec_int3_withVme` does not read CR4.VME, and which
the kind CC or CD does not change. -/
theorem breakpointIsExempt : Obligations.BreakpointIsExempt := by
  unfold Obligations.BreakpointIsExempt
  intro s
  refine ⟨fun hm => ?_, fun hm vme => ?_, fun hm => ⟨?_, ?_⟩, fun hm ret => ⟨?_, ?_, rfl⟩⟩
  · rw [exec_int3, deliver_of_v86 hm]
  · have hvme : exec .int3 { s with cr4VME := vme } = mapNext (withVme vme) (exec .int3 s) := exec_int3_withVme hm vme
    rw [hvme]
    exact ⟨mapNext_eq_fault_iff _ _, fun t ht => by rw [ht]; rfl⟩
  · rw [exec_int3, deliver_of_real hm]
  · exact (exec_intImm8_of_not_v86 (by simp [hm]) 3).trans (deliver_of_real hm _ _ _)
  · rw [exec_int3, deliver_of_prot hm]
  · exact (exec_intImm8_of_not_v86 (by simp [hm]) 3).trans (deliver_of_prot hm _ _ _)

/-- Settles O39: EFLAGS after is EFLAGS before with some of the six flags cleared (`exec_eflags`), and clearing flags sets
no bit and changes no other. -/
theorem noFlagIsEverSet : Obligations.NoFlagIsEverSet := by
  unfold Obligations.NoFlagIsEverSet
  intro i s t h hgate j
  obtain ⟨fs, hfs, he⟩ := exec_eflags h hgate
  rw [he]
  refine ⟨clearFlags_bit_le fs s.eflags j, fun h8 h9 h14 h16 h17 h18 => ?_⟩
  exact getLsbD_clearFlags_of_ne (fun f hf => ne_flagPos_of_clearable h8 h9 h14 h16 h17 h18 f (hfs hf)) s.eflags

end Sys2Proof.Machine
end

section
/-! PROOFS. The family 70_reset_and_hazards.md: where the interrupt table is after reset (R180). -/

namespace Sys2Proof.Machine

/-- Settles O45: the reset state is a literal record, and its IDTR field carries the base of R180. -/
theorem resetIdtrBaseIsZero : Obligations.ResetIdtrBaseIsZero := by
  unfold Obligations.ResetIdtrBaseIsZero
  rfl

end Sys2Proof.Machine
end

section
/-! PROOFS. The family 'other', the launch: its conditions in bits (10_state.md R28, R29; 70_reset_and_hazards.md R181),
the invariant every step keeps, and the state after reset. -/

namespace Sys2Proof.Machine

/-! ### The mode in bits (10_state.md R29) -/

theorem mode_ne_real_iff (s : State) : mode s ≠ .real ↔ s.cr0PE = true := by
  rw [Ne, mode_eq_real_iff, Bool.not_eq_false]

/-- Settles O47: the three cases of `mode`, VM being bit 17. -/
theorem modeIsSelectedByPeAndVm : Obligations.ModeIsSelectedByPeAndVm := by
  unfold Obligations.ModeIsSelectedByPeAndVm
  exact fun s => ⟨mode_eq_real_iff s, mode_eq_v86_iff s, mode_eq_prot_iff s⟩

/-! ### The reserved bits of EFLAGS (10_state.md R28) -/

/-- The positions whose bits 10_state.md R28 keeps at 0. -/
def ReservedZero (j : Nat) : Prop := j = 3 ∨ j = 5 ∨ j = 15 ∨ 22 ≤ j

/-- The check by a mask, bit by bit. -/
theorem reservedFlagsOk_iff (w : Word) :
    reservedFlagsOk w = true ↔ w.getLsbD 1 = true ∧ ∀ j < 32, ReservedZero j → w.getLsbD j = false := by
  have hmask : ∀ j < 32, (0xFFC0802A : Word).getLsbD j = decide (j = 1 ∨ j = 3 ∨ j = 5 ∨ j = 15 ∨ 22 ≤ j) := by decide
  have hone : ∀ j < 32, (0x00000002 : Word).getLsbD j = decide (j = 1) := by decide
  rw [reservedFlagsOk, decide_eq_true_eq]
  constructor
  · intro h
    have hbit (j : Nat) : (w &&& 0xFFC0802A).getLsbD j = (0x00000002 : Word).getLsbD j := by rw [h]
    refine ⟨?_, fun j hj hz => ?_⟩
    · simpa using hbit 1
    · have hne : j ≠ 1 := by rintro rfl; revert hz; simp [ReservedZero]
      have hb := hbit j
      rw [BitVec.getLsbD_and, hmask j hj, hone j hj, decide_eq_true (.inr hz), decide_eq_false hne] at hb
      simpa using hb
  · rintro ⟨h1, hz⟩
    refine BitVec.eq_of_getLsbD_eq fun j hj => ?_
    rw [BitVec.getLsbD_and, hmask j hj, hone j hj]
    by_cases hj1 : j = 1
    · subst hj1; simp [h1]
    · by_cases hr : ReservedZero j
      · simp [hz j hj hr, hj1]
      · have hfree : ¬(j = 1 ∨ j = 3 ∨ j = 5 ∨ j = 15 ∨ 22 ≤ j) := not_or.2 ⟨hj1, hr⟩
        rw [decide_eq_false hfree, decide_eq_false hj1, Bool.and_false]

/-- Words that agree on every bit that is no flag the machine changes have their reserved bits alike. -/
theorem reservedFlagsOk_congr {v w : Word} (h : ∀ j, j = 1 ∨ ReservedZero j → v.getLsbD j = w.getLsbD j) :
    reservedFlagsOk v = reservedFlagsOk w := by
  rw [Bool.eq_iff_iff, reservedFlagsOk_iff, reservedFlagsOk_iff, h 1 (.inl rfl)]
  refine and_congr_right fun _ => forall_congr' fun j => imp_congr_right fun _ => imp_congr_right fun hz => ?_
  rw [h j (.inr hz)]

/-- No flag of the six is a reserved bit. -/
theorem ne_flagPos_of_reserved {j : Nat} (hj : j = 1 ∨ ReservedZero j) : ∀ f ∈ clearableFlags, j ≠ flagPos f := by
  unfold ReservedZero at hj
  exact ne_flagPos_of_clearable (by omega) (by omega) (by omega) (by omega) (by omega) (by omega)

theorem reservedFlagsOk_clearFlags {fs : List Flag} (h : fs ⊆ clearableFlags) (w : Word) :
    reservedFlagsOk (clearFlags fs w) = reservedFlagsOk w :=
  reservedFlagsOk_congr fun _ hj => getLsbD_clearFlags_of_ne (fun f hf => ne_flagPos_of_reserved hj f (h hf)) w

theorem reservedFlagsOk_setFlag_nt (w : Word) : reservedFlagsOk (setFlag .nt w) = reservedFlagsOk w := by
  refine reservedFlagsOk_congr fun j hj => ?_
  rw [getLsbD_setFlag, decide_eq_false (ne_flagPos_of_reserved hj .nt (by decide)), Bool.or_false]

/-- NT set leaves VM alone (60_exceptions.md R137). -/
theorem getFlag_vm_setFlag_nt (w : Word) : getFlag .vm (setFlag .nt w) = getFlag .vm w := by
  rw [getFlag, getLsbD_setFlag, decide_eq_false (by decide), Bool.or_false, getFlag]

/-! ### EIP below 2^16 -/

/-- EIP[31:16] = 0 says that EIP is below 2^16. -/
theorem high_half_eq_zero_iff (w : Word) : w.extractLsb' 16 16 = 0 ↔ w.toNat < 65536 := by
  rw [← BitVec.toNat_inj, BitVec.extractLsb'_toNat, Nat.shiftRight_eq_div_pow]
  have := w.isLt
  show w.toNat / 2 ^ 16 % 2 ^ 16 = 0 ↔ _
  omega

theorem high_half_setWidth (v : Half) : (v.setWidth 32 : Word).extractLsb' 16 16 = 0 := by
  rw [high_half_eq_zero_iff, BitVec.toNat_setWidth_of_le (by decide)]
  exact v.isLt

/-- Outside protected mode the next instruction's offset is below 2^16 (10_state.md R22). -/
theorem high_half_nextOffset {s : State} (hm : mode s ≠ .prot) (len : Nat) :
    (nextOffset s len).extractLsb' 16 16 = 0 := by
  unfold nextOffset
  split
  · exact absurd ‹_› hm
  · exact high_half_setWidth _

/-- The return offset of a delivery is the offset of the next instruction (40_int.md R115). -/
theorem Delivers.ret_eq {i : Instr} {s : State} {n : Nat} {ret : Word} (h : Delivers i s n ret) :
    ret = nextOffset s (instrLength i) := by
  cases i with
  | int3 => obtain ⟨-, hret⟩ := h; exact hret
  | intImm8 ib => obtain ⟨-, hret, -⟩ := h; exact hret
  | into => obtain ⟨-, hret, -⟩ := h; exact hret

/-! ### The launch check, part by part -/

theorem eflagsLaunchOk_iff (s : State) :
    eflagsLaunchOk s = true ↔ reservedFlagsOk s.eflags = true ∧ (getFlag .vm s.eflags = true → s.cr0PE = true) := by
  cases hv : getFlag .vm s.eflags <;> simp [eflagsLaunchOk, hv]

theorem modeLaunchOk_iff (s : State) :
    modeLaunchOk s = true ↔ (mode s = .real → s.cpl = 0) ∧ (mode s = .v86 → s.cpl = 3) ∧
      (mode s ≠ .prot → s.eip.extractLsb' 16 16 = 0) := by
  cases hm : mode s <;> simp [modeLaunchOk, hm]

theorem csLaunchOk_iff (s : State) : csLaunchOk s = true ↔ (mode s = .real → s.csAtReset = false) := by
  cases hc : s.csAtReset <;> simp [csLaunchOk, hc]

/-- The launch conditions in bits. -/
theorem launchOk_iff_bits (s : State) :
    launchOk s = true ↔
      s.eflags.getLsbD 1 = true ∧ (∀ j < 32, ReservedZero j → s.eflags.getLsbD j = false) ∧
      (s.eflags.getLsbD 17 = true → s.cr0PE = true) ∧ (s.cr0PE = false → s.cpl = 0) ∧
      (s.cr0PE = true → s.eflags.getLsbD 17 = true → s.cpl = 3) ∧
      (s.cr0PE = false ∨ s.eflags.getLsbD 17 = true → s.eip.toNat < 65536) ∧
      (s.cr0PE = false → s.csAtReset = false) := by
  have hvm : getFlag .vm s.eflags = s.eflags.getLsbD 17 := rfl
  rw [launchOk_iff, eflagsLaunchOk_iff, reservedFlagsOk_iff, modeLaunchOk_iff, csLaunchOk_iff, Ne, mode_eq_prot_iff,
    mode_eq_real_iff, mode_eq_v86_iff, high_half_eq_zero_iff, hvm]
  cases s.cr0PE <;> cases s.eflags.getLsbD 17 <;> simp [and_assoc]

/-! ### The invariant of the machine -/

/-- The invariant asks of the registers all that the launch check does but a loaded CS. -/
theorem launchOk_of_inv {s : State} (h : s.Inv) (hcs : csLaunchOk s = true) : launchOk s = true := by
  obtain ⟨hflags, hmode, -, -⟩ := h
  exact (launchOk_iff s).2 ⟨hflags, hmode, hcs⟩

/-- The state before a step has what is saved of it in a form the machine can run on. -/
theorem contextOk_saveContext {s : State} (h : s.Inv) {ret : Word} (hret : mode s ≠ .prot → ret.extractLsb' 16 16 = 0) :
    contextOk (saveContext s ret) = true := by
  obtain ⟨hflags, hmode, -, -⟩ := h
  obtain ⟨hres, hvm⟩ := (eflagsLaunchOk_iff s).1 hflags
  obtain ⟨-, hcpl, -⟩ := (modeLaunchOk_iff s).1 hmode
  cases hv : getFlag .vm s.eflags with
  | false => simp [contextOk, saveContext, hres, hv]
  | true =>
    have hm : mode s = .v86 := (mode_eq_v86_iff s).2 ⟨hvm hv, hv⟩
    simp [contextOk, saveContext, hres, hcpl hm, hret (by simp [hm])]

/-- A change to one task state segment keeps what holds of all register images, if it keeps it of that one's. -/
theorem contextOk_updateTss {sel : Half} {f : Tss → Tss} {l : List TssEntry}
    (hf : ∀ t, contextOk t.ctx = true → contextOk (f t).ctx = true) (hl : ∀ e ∈ l, contextOk e.tss.ctx = true) :
    ∀ e ∈ updateTss sel f l, contextOk e.tss.ctx = true := by
  intro e he
  obtain ⟨d, hd, rfl⟩ := List.mem_map.1 he
  split
  · exact hf d.tss (hl d hd)
  · exact hl d hd

/-- A task state segment found is one of those listed, so the machine can run on its register image. -/
theorem contextOk_of_findTss {s : State} (h : s.Inv) {sel : Half} {t : Tss} (ht : findTss sel s.tssTable = some t) :
    contextOk t.ctx = true := by
  obtain ⟨-, -, -, htss⟩ := h
  obtain ⟨e, he, rfl⟩ := Option.map_eq_some_iff.1 ht
  exact htss e (List.mem_of_find?_eq_some he)

/-- INTO with OF = 0 keeps the invariant (40_int.md R113). -/
theorem inv_setEip_nextOffset {s : State} (h : s.Inv) (len : Nat) :
    State.Inv { s with eip := nextOffset s len } := by
  obtain ⟨hflags, hmode, hmem, htss⟩ := h
  obtain ⟨hreal, hv86, -⟩ := (modeLaunchOk_iff s).1 hmode
  exact ⟨hflags, (modeLaunchOk_iff _).2 ⟨hreal, hv86, fun hm => high_half_nextOffset (s := s) hm len⟩, hmem, htss⟩

theorem mode_enterReal {s : State} (hm : mode s = .real) (ea ret : Word) : mode (enterReal s ea ret) = .real :=
  (mode_eq_real_iff _).2 ((mode_eq_real_iff s).1 hm)

/-- A real-address-mode delivery keeps the invariant (60_exceptions.md R134). -/
theorem inv_enterReal {s : State} (h : s.Inv) (hm : mode s = .real) (ea ret : Word) : (enterReal s ea ret).Inv := by
  obtain ⟨hflags, hmode, hmem, htss⟩ := h
  obtain ⟨hres, hvm⟩ := (eflagsLaunchOk_iff s).1 hflags
  obtain ⟨hcpl, -, -⟩ := (modeLaunchOk_iff s).1 hmode
  refine ⟨(eflagsLaunchOk_iff _).2 ⟨?_, ?_⟩, (modeLaunchOk_iff _).2 ⟨fun _ => hcpl hm, ?_, fun _ => ?_⟩,
    writeCells_wf s _ hmem, htss⟩
  · rw [enterReal_eflags, reservedFlagsOk_clearFlags realCleared_subset, hres]
  · exact fun hv => hvm (clearFlags_bit_le _ _ _ hv)
  · simp [mode_enterReal hm]
  · rw [enterReal_eip, high_half_setWidth]

/-- A delivery through an interrupt or trap gate keeps the invariant: its handler runs in protected mode
(60_exceptions.md R137). -/
theorem inv_enterGate {s : State} {g : Gate} (h : s.Inv) (hpe : s.cr0PE = true) (hv : g.kind ≠ .invalid)
    (ht : g.kind ≠ .task) (hid : Hidden) (level : BitVec 2) (ss : SegReg) (k : Stack) (ret : Word) :
    (enterGate s g hid level ss k ret).Inv := by
  obtain ⟨hflags, -, hmem, htss⟩ := h
  obtain ⟨hres, -⟩ := (eflagsLaunchOk_iff s).1 hflags
  have hprot := mode_enterGate hpe hv ht hid level ss k ret
  refine ⟨(eflagsLaunchOk_iff _).2 ⟨?_, fun _ => hpe⟩, (modeLaunchOk_iff _).2 (by simp [hprot]), writeCells_wf s _ hmem,
    htss⟩
  rw [enterGate_eflags, reservedFlagsOk_clearFlags (gateCleared_subset g.kind), hres]

/-- A task switch keeps the invariant: it loads a register image the machine can run on and saves another
(60_exceptions.md R137, R138). -/
theorem inv_enterTask {s : State} {sel : Half} {t : Tss} {ret : Word} (h : s.Inv) (hpe : s.cr0PE = true)
    (ht : contextOk t.ctx = true) (hret : mode s ≠ .prot → ret.extractLsb' 16 16 = 0) :
    (enterTask s sel t ret).Inv := by
  have hsaved := contextOk_saveContext h hret
  obtain ⟨-, -, hmem, htss⟩ := h
  simp only [contextOk, Bool.and_eq_true, Bool.or_eq_true, Bool.not_eq_true', decide_eq_true_eq] at ht
  obtain ⟨hres, hvm⟩ := ht
  refine ⟨(eflagsLaunchOk_iff _).2 ⟨?_, fun _ => hpe⟩, (modeLaunchOk_iff _).2 ?_, hmem, ?_⟩
  · rw [enterTask_eflags, reservedFlagsOk_setFlag_nt, hres]
  · rw [Ne, mode_eq_real_iff, mode_eq_v86_iff, mode_eq_prot_iff, enterTask_cr0PE, enterTask_eflags,
      getFlag_vm_setFlag_nt, enterTask_cpl, enterTask_eip, hpe]
    rcases hvm with hvm | ⟨hcpl, heip⟩
    · simp [hvm]
    · simp [hcpl, heip]
  · rw [enterTask_tssTable]
    exact contextOk_updateTss (fun _ h => h) (contextOk_updateTss (fun _ _ => hsaved) htss)

/-- The next state of an instruction from a launch state meets the invariant, and its CS is as a launch asks. -/
theorem inv_of_exec_next {i : Instr} {s t : State} (hinv : s.Inv) (hcs : csLaunchOk s = true) (h : exec i s = .next t) :
    t.Inv ∧ csLaunchOk t = true := by
  rcases exec_next h with ⟨-, -, rfl⟩ | ⟨n, ret, hd, hdel⟩
  · exact ⟨inv_setEip_nextOffset hinv 1, hcs⟩
  · rcases deliver_next hdel with ⟨hm, rfl⟩ | ⟨hm, hprot⟩
    · exact ⟨inv_enterReal hinv hm _ ret, rfl⟩
    · have hpe := (mode_ne_real_iff s).1 hm
      obtain ⟨⟨-, hvalid, -, -⟩, ⟨-, tss, old, hfind, -, rfl⟩ | ⟨htask, hid, level, ss, k, -, -, rfl⟩⟩ :=
        deliverProtected_next hprot
      · have hret (hp : mode s ≠ .prot) := hd.ret_eq ▸ high_half_nextOffset hp (instrLength i)
        exact ⟨inv_enterTask hinv hpe (contextOk_of_findTss hinv hfind) hret, rfl⟩
      · exact ⟨inv_enterGate hinv hpe hvalid htask hid level ss k ret, rfl⟩

/-- Settles O43: a step is the meaning of an instruction from a launch state, and each of the four ways that has to a
next state (INTO with OF = 0, real-address mode, a task gate, an interrupt or trap gate) keeps the invariant. -/
theorem stepKeepsMachineInvariant : Obligations.StepKeepsMachineInvariant := by
  unfold Obligations.StepKeepsMachineInvariant
  intro s t hinv h
  obtain ⟨hl, i, -, -, hexec⟩ := step_next h
  obtain ⟨-, -, hcs⟩ := (launchOk_iff s).1 hl
  obtain ⟨hinv', hcs'⟩ := inv_of_exec_next hinv hcs hexec
  exact ⟨hinv', launchOk_of_inv hinv' hcs'⟩

/-! ### What an instruction can be refused for -/

theorem stopOutcome_eq_refused_iff (e : Stop) (r : Refusal) : stopOutcome e = .refused r ↔ e = .refuse r := by
  cases e <;> simp [stopOutcome]

/-- A failed check of a code-segment descriptor is a fault (60_exceptions.md R137). -/
theorem checkCode_error {sel : Half} {cpl : BitVec 2} {d : CodeDesc} {e : Stop} (h : checkCode sel cpl d = .error e) :
    ∃ f, e = .fault f := by
  unfold checkCode at h
  split at h
  · cases h; exact ⟨_, rfl⟩
  · split at h
    · cases h; exact ⟨_, rfl⟩
    · split at h
      · cases h; exact ⟨_, rfl⟩
      · cases h

/-- LoadCodeSegment is refused only where it is not supplied (60_exceptions.md R137). -/
theorem loadCodeSegment_error {s : State} {sel : Half} {e : Stop} (h : loadCodeSegment s sel = .error e) :
    e = .refuse .loadCodeSegmentNotSupplied ∨ ∃ f, e = .fault f := by
  unfold loadCodeSegment at h
  split at h
  · cases h; exact .inl rfl
  · split at h
    · cases h; exact .inr ⟨_, rfl⟩
    · split at h
      · cases h; exact .inr ⟨_, rfl⟩
      · exact .inr (checkCode_error h)

/-- The level-0 check adds a fault and no refusal (60_exceptions.md R136). -/
theorem handlerSegment_error {s : State} {g : Gate} {e : Stop} (h : handlerSegment s g = .error e) :
    e = .refuse .loadCodeSegmentNotSupplied ∨ ∃ f, e = .fault f := by
  unfold handlerSegment at h
  split at h
  · next e' he => cases h; exact loadCodeSegment_error he
  · split at h
    · cases h; exact .inr ⟨_, rfl⟩
    · cases h

/-- A stack is refused only where StackSwitch is not supplied (60_exceptions.md R137). -/
theorem handlerStack_error {s : State} {level : BitVec 2} {e : Stop} (h : handlerStack s level = .error e) :
    e = .refuse .stackSwitchNotSupplied ∨ ∃ f, e = .fault f := by
  unfold handlerStack at h
  split at h
  · split at h
    · next e' he =>
      cases h
      unfold stackSwitch at he
      split at he
      · cases he; exact .inl rfl
      · cases he; exact .inr ⟨_, rfl⟩
      · cases he
    · cases h
  · cases h

/-- The refusals of a protected-mode delivery (60_exceptions.md R137, R138; 20_memory.md R77; 00_scope.md R4). -/
theorem deliverProtected_refused {s : State} {n : Nat} {kind : Kind} {ret : Word} {r : Refusal}
    (h : deliverProtected s n kind ret = .refused r) :
    r ∈ [.parametersAtDefault, .loadCodeSegmentNotSupplied, .stackSwitchNotSupplied, .taskSwitchNotSupplied,
      .frameOverlapsIdtEntry] := by
  have of_stop {e : Stop} {q : Refusal} (he : stopOutcome e = .refused r) (hq : e = .refuse q ∨ ∃ f, e = .fault f) :
      r = q := by
    rw [stopOutcome_eq_refused_iff] at he
    subst he
    simpa using hq
  unfold deliverProtected at h
  split at h
  · next e he =>
    have hgate (f : Fault) : gateStop s f = .refuse .parametersAtDefault ∨ ∃ f', gateStop s f = .fault f' := by
      unfold gateStop
      split
      · exact .inl rfl
      · exact .inr ⟨f, rfl⟩
    have hstop : e = .refuse .parametersAtDefault ∨ ∃ f, e = .fault f := by
      rcases checkedGate_error he with ⟨-, rfl⟩ | ⟨-, rfl | rfl⟩
      · exact .inr ⟨_, rfl⟩
      · exact hgate _
      · exact hgate _
    simp [of_stop h hstop]
  · next g hg =>
    split at h
    · rcases taskSwitch_cases s g.selector ret with ⟨-, e⟩ | ⟨tss, old, -, -, ⟨f, -, e⟩ | ⟨-, e⟩⟩ <;>
        rw [e] at h <;> cases h
      simp
    · rcases deliverThroughGate_cases s n g ret with
        ⟨e, hstop | ⟨hid, level, -, hstop⟩, he⟩ | ⟨hid, level, ss, k, -, -, ⟨-, he⟩ | he⟩ <;> rw [he] at h
      · simp [of_stop h (handlerSegment_error hstop)]
      · simp [of_stop h (handlerStack_error hstop)]
      · cases h; simp
      · cases h

/-- The launch check is the step's alone: no instruction's meaning makes it (log entry 4). -/
theorem exec_ne_notALaunchState (i : Instr) (s : State) : exec i s ≠ .refused .notALaunchState := by
  have hdeliver (n : Nat) (kind : Kind) (ret : Word) : deliver s n kind ret ≠ .refused .notALaunchState := by
    unfold deliver
    split
    · rcases deliverReal_cases s n ret with ⟨-, e⟩ | ⟨-, e⟩ | ⟨-, e⟩ | e <;> simp [e]
    · exact fun h => by simpa using deliverProtected_refused h
    · exact fun h => by simpa using deliverProtected_refused h
  have hcheck {kind : Kind} {stop : Stop} (h : v86Check s kind = some stop) :
      stopOutcome stop ≠ .refused .notALaunchState := by
    rcases v86Check_cases s kind with e | ⟨-, -, -, e⟩ | ⟨-, -, -, e⟩ <;> rw [e] at h <;> cases h <;> simp [stopOutcome]
  cases i with
  | int3 => exact hdeliver 3 .cc _
  | intImm8 ib =>
    show execIntImm8 ib s ≠ _
    unfold execIntImm8
    split
    · next stop h => exact hcheck h
    · exact hdeliver _ _ _
  | into =>
    show execInto s ≠ _
    unfold execInto
    split
    · simp
    · split
      · next stop h => exact hcheck h
      · exact hdeliver _ _ _

theorem step_of_not_launchOk {s : State} (h : launchOk s = false) : step s = .refused .notALaunchState := if_pos h

/-- A step is the launch refusal exactly where the launch check fails. -/
theorem step_notALaunchState_iff (s : State) : step s = .refused .notALaunchState ↔ launchOk s ≠ true := by
  rw [Ne, Bool.not_eq_true]
  refine ⟨fun h => ?_, step_of_not_launchOk⟩
  unfold step at h
  split at h
  · assumption
  · split at h
    · exact absurd h (exec_ne_notALaunchState _ _)
    · cases h
    · cases h

/-- Settles O8: nothing but the launch check gives that refusal, and `launchOk_iff_bits` spells the check out. -/
theorem onlyLaunchStatesStep : Obligations.OnlyLaunchStatesStep := by
  unfold Obligations.OnlyLaunchStatesStep
  intro s
  rw [step_notALaunchState_iff, Ne, launchOk_iff_bits]
  rfl

/-! ### The state after reset (10_state.md R36; 70_reset_and_hazards.md R180, R181) -/

theorem mode_reset : mode State.reset = .real := rfl

theorem eflagsLaunchOk_reset : eflagsLaunchOk State.reset = true := by decide

theorem modeLaunchOk_reset : modeLaunchOk State.reset = true := by decide

/-- Settles O44: the registers are as a launch has them, and no byte of memory and no task is listed. -/
theorem resetMeetsMachineInvariant : Obligations.ResetMeetsMachineInvariant := by
  unfold Obligations.ResetMeetsMachineInvariant
  refine ⟨eflagsLaunchOk_reset, modeLaunchOk_reset, (Memory.wf_iff _).2 ⟨List.Pairwise.nil, ?_⟩, ?_⟩
  · exact fun e he => absurd he List.not_mem_nil
  · exact fun e he => absurd he List.not_mem_nil

/-- Settles O46: the fields of the literal record, and the segments other than CS one by one. -/
theorem resetRegisterValues : Obligations.ResetRegisterValues := by
  unfold Obligations.ResetRegisterValues
  have hseg (r : SegName) (hr : r ≠ .cs) : segReg State.reset r = SegReg.atReset := by
    cases r with
    | cs => exact absurd rfl hr
    | ss => rfl
    | ds => rfl
    | es => rfl
    | fs => rfl
    | gs => rfl
  refine ⟨rfl, rfl, rfl, rfl, by decide, fun r hr => ?_, rfl, rfl, rfl, rfl, rfl, rfl, rfl, mode_reset, rfl, rfl⟩
  rw [hseg r hr]
  exact ⟨rfl, rfl⟩

/-- 70_reset_and_hazards.md R181: with CS not loaded since reset, a launch in real-address mode is refused. -/
theorem step_of_csAtReset {s : State} (hm : mode s = .real) (hc : s.csAtReset = true) :
    step s = .refused .notALaunchState := by
  rw [step_notALaunchState_iff, Ne, launchOk_iff, csLaunchOk_iff]
  rintro ⟨-, -, hcs⟩
  simp [hcs hm] at hc

/-- Settles O49: the reset state is one with CS not loaded, and launching loads it. -/
theorem resetLaunchIsRefused : Obligations.ResetLaunchIsRefused := by
  unfold Obligations.ResetLaunchIsRefused
  exact ⟨step_of_csAtReset mode_reset rfl, fun s => step_of_csAtReset,
    launchOk_launched eflagsLaunchOk_reset modeLaunchOk_reset, by decide⟩

end Sys2Proof.Machine
end

section
/-! PROOFS. The family 'other', decoding and the fetch: the bytes at CS:EIP, what they decode to, and the step they make
(30_encoding.md R90 to R101). -/

namespace Sys2Proof

/-- 30_encoding.md R96: any other byte 0 is refused by name. -/
theorem decode_other {b : Byte} (hcc : b ≠ 0xCC) (hcd : b ≠ 0xCD) (hce : b ≠ 0xCE) (bs : List Byte) :
    decode (b :: bs) = .error (.opcode b) := by
  simp only [decode, hcc, hcd, hce, if_false]

/-- 30_encoding.md R101: CD alone is no instruction yet. -/
@[simp] theorem decode_cd_truncated : decode [0xCD] = .error .truncated := rfl

/-- Settles O1: each word by the equation of its first byte. -/
theorem specWordsDecode : Obligations.SpecWordsDecode := by
  unfold Obligations.SpecWordsDecode
  exact ⟨decode_cc [], decode_cd 0 [], decode_cd 3 [], decode_cd 128 [], decode_cd 255 [], rfl, decode_ce [],
    decode_other (by decide) (by decide) (by decide) [], decode_other (by decide) (by decide) (by decide) [],
    decode_other (by decide) (by decide) (by decide) [0xCD, 0x21],
    decode_other (by decide) (by decide) (by decide) [0xCC]⟩

end Sys2Proof

namespace Sys2Proof.Machine

/-! ### The bytes at CS:EIP -/

/-- The end of the offset range, by mode (10_state.md R22). -/
theorem atRangeEnd_iff (s : State) :
    atRangeEnd s = true ↔ (mode s = .prot ∧ s.eip = 0xFFFFFFFF) ∨ (mode s ≠ .prot ∧ ip s = 0xFFFF) := by
  cases hm : mode s <;> simp [atRangeEnd, hm]

theorem atRangeEnd_eq_false {s : State} (hp : mode s = .prot → s.eip ≠ 0xFFFFFFFF)
    (hr : mode s ≠ .prot → ip s ≠ 0xFFFF) : atRangeEnd s = false := by
  rw [← Bool.not_eq_true, atRangeEnd_iff]
  rintro (⟨hm, he⟩ | ⟨hm, he⟩)
  · exact hp hm he
  · exact hr hm he

/-- Before the end of the offset range the fetch reads the bytes at EIP and EIP + 1 (30_encoding.md R98). -/
theorem fetchBytes_of_not_end {s : State} (h : atRangeEnd s = false) :
    fetchBytes s = [readByte s (lin s .cs s.eip), readByte s (lin s .cs (s.eip + 1))] := by
  simp only [fetchBytes, fetchAddresses, h, Bool.false_eq_true, if_false, List.map_cons, List.map_nil]

/-- At the end of the offset range the fetch reads one byte (30_encoding.md R101). -/
theorem fetchBytes_of_end {s : State} (h : atRangeEnd s = true) : fetchBytes s = [readByte s (lin s .cs s.eip)] := by
  simp only [fetchBytes, fetchAddresses, h, if_true, List.map_cons, List.map_nil]

/-! ### The step that byte 0 makes -/

/-- 30_encoding.md R98: CE at CS:EIP makes the step an INTO. -/
theorem step_of_ce {s : State} (hl : launchOk s = true) (hb : readByte s (lin s .cs s.eip) = 0xCE) :
    step s = exec .into s := by
  obtain ⟨rest, hf⟩ := fetchBytes_eq_cons s
  exact step_of_decode (rest := rest) hl (by rw [hf, hb, decode_ce])

/-- 30_encoding.md R98: CD at CS:EIP, not at the end of the range, makes the step an INT imm8 of the byte after it. -/
theorem step_of_cd {s : State} (hl : launchOk s = true) (hb : readByte s (lin s .cs s.eip) = 0xCD)
    (hend : atRangeEnd s = false) : step s = exec (.intImm8 (readByte s (lin s .cs (s.eip + 1)))) s :=
  step_of_decode hl (by rw [fetchBytes_of_not_end hend, hb, decode_cd])

/-- 30_encoding.md R101: CD at the end of the range is #GP. -/
theorem step_of_cd_at_end {s : State} (hl : launchOk s = true) (hb : readByte s (lin s .cs s.eip) = 0xCD)
    (hend : atRangeEnd s = true) : step s = .fault (.gp (fetchFaultCode s)) := by
  simp only [step, hl, fetchBytes_of_end hend, hb, decode_cd_truncated, Bool.true_eq_false, if_false]

/-- 30_encoding.md R96: any other byte 0 makes the step a refusal that names it. -/
theorem step_of_other {s : State} {b : Byte} (hl : launchOk s = true) (hb : readByte s (lin s .cs s.eip) = b)
    (hcc : b ≠ 0xCC) (hcd : b ≠ 0xCD) (hce : b ≠ 0xCE) : step s = .refused (.opcodeNotInScope b) := by
  obtain ⟨rest, hf⟩ := fetchBytes_eq_cons s
  simp only [step, hl, hf, hb, decode_other hcc hcd hce, Bool.true_eq_false, if_false]

/-! ### The obligations -/

/-- Settles O4: the decoder's last branch, and the step it makes. -/
theorem otherOpcodesAreRefused : Obligations.OtherOpcodesAreRefused := by
  unfold Obligations.OtherOpcodesAreRefused
  exact fun s b bs hcc hcd hce => ⟨decode_other hcc hcd hce bs, fun hl hb => step_of_other hl hb hcc hcd hce⟩

/-- Settles O5: what a step does at a launch state whose bytes decode. -/
theorem stepRunsDecodedInstruction : Obligations.StepRunsDecodedInstruction := by
  unfold Obligations.StepRunsDecodedInstruction
  exact fun s i rest hl _ hd => step_of_decode hl hd

/-- Settles O6: one lemma for each first byte. -/
theorem fetchDecodesAtCsEip : Obligations.FetchDecodesAtCsEip := by
  unfold Obligations.FetchDecodesAtCsEip
  intro s hl
  exact ⟨step_of_cc hl, step_of_ce hl, fun hb hp hr => step_of_cd hl hb (atRangeEnd_eq_false hp hr),
    fun b hb => step_of_other hl hb⟩

/-- Settles O7: in every mode the range ends at that offset, and the error code is the mode's. -/
theorem straddlingFetchFaults : Obligations.StraddlingFetchFaults := by
  unfold Obligations.StraddlingFetchFaults
  intro s hl hb
  have hstep {code : Option Half} (hend : atRangeEnd s = true) (hcode : fetchFaultCode s = code) :
      step s = .fault (.gp code) := hcode ▸ step_of_cd_at_end hl hb hend
  refine ⟨fun hm he => hstep ?_ ?_, fun hm he => hstep ?_ ?_, fun hm he => hstep ?_ ?_⟩
  · exact (atRangeEnd_iff s).2 (.inr ⟨by simp [hm], he⟩)
  · simp [fetchFaultCode, hm]
  · exact (atRangeEnd_iff s).2 (.inr ⟨by simp [hm], he⟩)
  · simp [fetchFaultCode, hm]
  · exact (atRangeEnd_iff s).2 (.inl ⟨hm, he⟩)
  · simp [fetchFaultCode, hm]

end Sys2Proof.Machine
end

section
/-! PROOFS. The family 'other', memory, addresses and the stack (20_memory.md R61 to R79; 40_int.md R115). -/

namespace Sys2Proof.Machine

/-! ### Reads after stores -/

/-- 20_memory.md R76: a read sees the latest store to that byte, and any other byte as it was. -/
theorem readByte_store (s : State) (a c : Word) (b : Byte) :
    readByte { s with mem := s.mem.write a.toNat b } c = if c = a then b else readByte s c := by
  have h : readByte { s with mem := s.mem.write a.toNat b } c = if c.toNat = a.toNat then b else readByte s c :=
    Memory.read_write s.mem a.toNat c.toNat b
  rw [h]
  simp only [BitVec.toNat_inj]

/-- Bytes stored at consecutive addresses read back one by one (20_memory.md R61). -/
theorem readByte_writeCells_cellsAt (s : State) (a : Word) {bs : List Byte} (hl : bs.length ≤ 4) {j : Nat}
    (hj : j < bs.length) :
    readByte { s with mem := writeCells s (cellsAt a bs) } (a + BitVec.ofNat 32 j) = bs[j] := by
  have h := writeCells_read_cellsAt s [] [] a bs j hj hl (by simp)
  rwa [List.nil_append, List.append_nil] at h

/-- Byte `j` of a 16-bit value (20_memory.md R61). -/
theorem bytes16_getElem (v : Half) {j : Nat} (hj : j < (bytes16 v).length) :
    (bytes16 v)[j] = v.extractLsb' (8 * j) 8 := by
  match j, hj with
  | 0, _ => rfl
  | 1, _ => rfl

/-- Byte `j` of a 32-bit value (20_memory.md R61). -/
theorem bytes32_getElem (v : Word) {j : Nat} (hj : j < (bytes32 v).length) :
    (bytes32 v)[j] = v.extractLsb' (8 * j) 8 := by
  match j, hj with
  | 0, _ => rfl
  | 1, _ => rfl
  | 2, _ => rfl
  | 3, _ => rfl

/-- A 32-bit value byte by byte, the byte at the lowest address lowest (20_memory.md R61). -/
theorem read32_eq_bytes (s : State) (a : Word) :
    read32 s a = readByte s (a + 3) ++ readByte s (a + 2) ++ readByte s (a + 1) ++ readByte s a := by
  have h3 : a + 2 + 1 = a + 3 := BitVec.add_assoc a 2 1
  simp only [read32, read16, h3]
  exact BitVec.append_assoc'

/-! ### Linear addresses and offsets -/

/-- Only the low 16 bits of an offset, as a number. -/
theorem setWidth_half_word (w : Word) : ((w.setWidth 16).setWidth 32 : Word) = BitVec.ofNat 32 (w.toNat % 65536) := by
  apply BitVec.eq_of_toNat_eq
  rw [BitVec.toNat_setWidth, BitVec.toNat_setWidth, BitVec.toNat_ofNat]

theorem toNat_selectorBase (sel : Half) : (selectorBase sel).toNat = sel.toNat * 16 := by
  have h := sel.isLt
  rw [selectorBase, BitVec.toNat_shiftLeft, BitVec.toNat_setWidth, Nat.shiftLeft_eq]
  omega

theorem effectiveOffset_of_prot {s : State} (hm : mode s = .prot) (off : Word) : effectiveOffset s off = off := by
  simp only [effectiveOffset, hm]

theorem effectiveOffset_of_not_prot {s : State} (hm : mode s ≠ .prot) (off : Word) :
    effectiveOffset s off = (off.setWidth 16).setWidth 32 := by
  unfold effectiveOffset
  split
  · exact absurd ‹_› hm
  · rfl

/-- selector << 4 is the base in virtual-8086 mode, and in real-address mode but for CS not loaded since reset
(20_memory.md R63). -/
theorem segBase_eq_selectorBase {s : State} {r : SegName}
    (h : mode s = .v86 ∨ mode s = .real ∧ ¬(r = .cs ∧ s.csAtReset = true)) :
    segBase s r = selectorBase (segReg s r).sel := by
  rcases h with hm | ⟨hm, hc⟩
  · simp only [segBase, hm]
  · simp only [segBase, hm, if_neg hc]

theorem segBase_of_prot {s : State} (hm : mode s = .prot) (r : SegName) : segBase s r = (segReg s r).hid.base := by
  simp only [segBase, hm]

/-! ### Pushes -/

/-- The top of a stack whose pointer is SP. -/
theorem stackTop_small {k : Stack} (h : k.big = false) :
    stackTop k = k.base + BitVec.ofNat 32 (k.esp.toNat % 65536) := by
  rw [stackTop, h, if_neg Bool.false_ne_true, setWidth_half_word]

/-- The top of a stack whose pointer is ESP. -/
theorem stackTop_big {k : Stack} (h : k.big = true) : stackTop k = k.base + k.esp := by
  rw [stackTop, h, if_pos rfl]

/-- One push stores the value at the new top (20_memory.md R70). -/
theorem pushCells_singleton (k : Stack) (v : Slot) : pushCells k [v] = cellsAt (stackTop (pushed k v)) (slotData v) :=
  List.append_nil _

/-- SP goes down modulo 2^16 (20_memory.md R70). -/
theorem stackDown_small_toNat_mod (esp : Word) {c : Nat} (hc : c < 65536) :
    (stackDown false esp c).toNat % 65536 = (esp.toNat % 65536 + (65536 - c)) % 65536 := by
  have h := congrArg BitVec.toNat (stackDown_small_sp esp c)
  rw [BitVec.toNat_sub, BitVec.toNat_setWidth, BitVec.toNat_setWidth, BitVec.toNat_ofNat] at h
  omega

/-- ESP[31:16] stays, as a number (20_memory.md R70). -/
theorem stackDown_small_toNat_div (esp : Word) (c : Nat) :
    (stackDown false esp c).toNat / 65536 = esp.toNat / 65536 := by
  have h := congrArg BitVec.toNat (stackDown_small_high esp c)
  rw [BitVec.extractLsb'_toNat, BitVec.extractLsb'_toNat, Nat.shiftRight_eq_div_pow, Nat.shiftRight_eq_div_pow] at h
  have h1 := esp.isLt
  have h2 := (stackDown false esp c).isLt
  omega

/-- The pointer after one push. -/
theorem pushed_esp (k : Stack) (v : Slot) : (pushed k v).esp = stackDown k.big k.esp (slotBytes v) := rfl

theorem pushed_base (k : Stack) (v : Slot) : (pushed k v).base = k.base := rfl

/-- A push on a stack whose pointer is SP (20_memory.md R70). -/
theorem push_small {k : Stack} (h : k.big = false) (v : Slot) :
    (pushed k v).esp.toNat % 65536 = (k.esp.toNat % 65536 + (65536 - slotBytes v)) % 65536 ∧
    (pushed k v).esp.toNat / 65536 = k.esp.toNat / 65536 ∧
    pushCells k [v] = cellsAt (k.base + BitVec.ofNat 32 ((pushed k v).esp.toNat % 65536)) (slotData v) := by
  have hv := slotBytes_le v
  refine ⟨?_, ?_, ?_⟩
  · rw [pushed_esp, h, stackDown_small_toNat_mod _ (by omega)]
  · rw [pushed_esp, h, stackDown_small_toNat_div]
  · rw [pushCells_singleton, stackTop_small (k := pushed k v) h, pushed_base]

/-- A push on a stack whose pointer is ESP (20_memory.md R70). -/
theorem push_big {k : Stack} (h : k.big = true) (v : Slot) :
    (pushed k v).esp = k.esp - BitVec.ofNat 32 (slotBytes v) ∧
    pushCells k [v] = cellsAt (k.base + (k.esp - BitVec.ofNat 32 (slotBytes v))) (slotData v) := by
  have he : (pushed k v).esp = k.esp - BitVec.ofNat 32 (slotBytes v) := by rw [pushed_esp, h, stackDown, if_pos rfl]
  exact ⟨he, by rw [pushCells_singleton, stackTop_big (k := pushed k v) h, pushed_base, he]⟩

/-! ### Gate descriptors -/

/-- A gate descriptor put together from its fields, the most significant first (20_memory.md R68). -/
def gateBits (offHi offLo sel : Half) (p sBit : Bool) (dpl : BitVec 2) (type : BitVec 4) (b4 : Byte) : Quad :=
  offHi ++ BitVec.ofBool p ++ dpl ++ BitVec.ofBool sBit ++ type ++ b4 ++ sel ++ offLo

/-- Each field stands at the bits of 20_memory.md R68: above it only the parts before it, below it those after. -/
theorem fields_gateBits (offHi offLo sel : Half) (p sBit : Bool) (dpl : BitVec 2) (type : BitVec 4) (b4 : Byte)
    {g : Quad} (hg : g = gateBits offHi offLo sel p sBit dpl type b4) :
    g.extractLsb' 0 16 = offLo ∧ g.extractLsb' 16 16 = sel ∧ g.extractLsb' 40 4 = type ∧ g.getLsbD 44 = sBit ∧
      g.extractLsb' 45 2 = dpl ∧ g.getLsbD 47 = p ∧ g.extractLsb' 48 16 = offHi := by
  subst hg
  unfold gateBits
  refine ⟨?_, ?_, ?_, ?_, ?_, ?_, ?_⟩
  · rw [BitVec.extractLsb'_append_eq_of_add_le (by decide)]
    exact BitVec.extractLsb'_eq_self
  · rw [BitVec.extractLsb'_append_eq_of_le (by decide)]
    rw [BitVec.extractLsb'_append_eq_of_add_le (by decide)]
    exact BitVec.extractLsb'_eq_self
  · iterate 3 rw [BitVec.extractLsb'_append_eq_of_le (by decide)]
    rw [BitVec.extractLsb'_append_eq_of_add_le (by decide)]
    exact BitVec.extractLsb'_eq_self
  · iterate 4 rw [BitVec.getLsbD_append, if_neg (by decide)]
    rw [BitVec.getLsbD_append]
    simp
  · iterate 5 rw [BitVec.extractLsb'_append_eq_of_le (by decide)]
    rw [BitVec.extractLsb'_append_eq_of_add_le (by decide)]
    exact BitVec.extractLsb'_eq_self
  · iterate 6 rw [BitVec.getLsbD_append, if_neg (by decide)]
    rw [BitVec.getLsbD_append]
    simp
  · iterate 7 rw [BitVec.extractLsb'_append_eq_of_le (by decide)]
    exact BitVec.extractLsb'_eq_self

/-! ### The obligations -/

/-- Settles O10: `readByte_store`, at the address read and at those of the fetch, which the store does not move. -/
theorem fetchSeesEarlierStores : Obligations.FetchSeesEarlierStores := by
  unfold Obligations.FetchSeesEarlierStores
  exact fun s a c b => ⟨readByte_store s a c b, List.map_congr_left fun d _ => readByte_store s a d b⟩

/-- Settles O11: reads are concatenations of bytes, stored bytes read back one by one, and the fetch reads in order. -/
theorem littleEndianValues : Obligations.LittleEndianValues := by
  unfold Obligations.LittleEndianValues
  intro s a v w
  refine ⟨rfl, read32_eq_bytes s a, rfl, fun j hj => ?_, fun j hj => ?_, fun hp hr => ?_⟩
  · rw [readByte_writeCells_cellsAt s a (bs := bytes16 v) (by simp [bytes16]) (by simpa [bytes16] using hj),
      bytes16_getElem]
  · rw [readByte_writeCells_cellsAt s a (bs := bytes32 w) (by simp [bytes32]) (by simpa [bytes32] using hj),
      bytes32_getElem]
  · exact fetchBytes_of_not_end (atRangeEnd_eq_false hp hr)

/-- Settles O12: base and offset as numbers; their sum stays below 2^32, so nothing wraps. -/
theorem linearAddressRule : Obligations.LinearAddressRule := by
  unfold Obligations.LinearAddressRule
  intro s r off
  refine ⟨fun h => ?_, fun hm => ?_, fun hm hr hc => ?_⟩
  · have hm : mode s ≠ .prot := by rcases h with hm | ⟨hm, -⟩ <;> simp [hm]
    have hsel := (segReg s r).sel.isLt
    have hlin : (lin s r off).toNat = (segReg s r).sel.toNat * 16 + off.toNat % 65536 := by
      rw [lin, segBase_eq_selectorBase h, effectiveOffset_of_not_prot hm, setWidth_half_word, BitVec.toNat_add,
        toNat_selectorBase, BitVec.toNat_ofNat]
      omega
    exact ⟨hlin, by omega⟩
  · rw [lin, segBase_of_prot hm, effectiveOffset_of_prot hm]
  · subst hr
    have hbase : segBase s .cs = s.cs.hid.base := by simp only [segBase, hm, hc, and_self, if_true]; rfl
    rw [lin, hbase, effectiveOffset_of_not_prot (by simp [hm]), setWidth_half_word]

/-- Settles O13: the sum modulo 2^32, or modulo 2^16 of the low halves. -/
theorem nextOffsetWraps : Obligations.NextOffsetWraps := by
  unfold Obligations.NextOffsetWraps
  intro s len
  refine ⟨fun hm => ?_, fun hm => ?_⟩
  · have hn : nextOffset s len = (ip s + BitVec.ofNat 16 len).setWidth 32 := by
      unfold nextOffset
      split
      · exact absurd ‹_› hm
      · rfl
    rw [hn, BitVec.toNat_setWidth_of_le (by decide), BitVec.toNat_add, ip, BitVec.toNat_setWidth, BitVec.toNat_ofNat]
    omega
  · simp only [nextOffset, hm, BitVec.toNat_add, BitVec.toNat_ofNat]
    omega

/-- Settles O14: one push of either width, on a stack of either pointer size. -/
theorem pushRule : Obligations.PushRule := by
  unfold Obligations.PushRule
  intro k v w
  refine ⟨fun h => ?_, fun h => ?_⟩
  · obtain ⟨hsp, hhigh, hcells⟩ := push_small h (.half v)
    obtain ⟨hsp', hhigh', hcells'⟩ := push_small h (.word w)
    exact ⟨⟨hsp, hsp'⟩, hhigh, hhigh', hcells, hcells'⟩
  · obtain ⟨hesp, hcells⟩ := push_big h (.half v)
    obtain ⟨hesp', hcells'⟩ := push_big h (.word w)
    exact ⟨hesp, hesp', hcells, hcells'⟩

/-- Settles O15: every field DecodeGate reads lies inside one of the parts the descriptor is put together from. -/
theorem gateDescriptorLayout : Obligations.GateDescriptorLayout := by
  unfold Obligations.GateDescriptorLayout
  intro offHi offLo sel p sBit dpl type b4
  obtain ⟨hlo, hsel, htype, hs, hdpl, hp, hhi⟩ := fields_gateBits offHi offLo sel p sBit dpl type b4 rfl
  show decodeGate (gateBits offHi offLo sel p sBit dpl type b4) = _
  simp only [decodeGate, gateKindOf, hlo, hsel, htype, hs, hdpl, hp, hhi]

end Sys2Proof.Machine
end

section
/-! PROOFS. The family 'other', delivery in real-address mode (60_exceptions.md R134, R144; 20_memory.md R66 to R77). -/

namespace Sys2Proof.Machine

/-! ### What an instruction that delivers is, by mode -/

/-- 60_exceptions.md R133: outside real-address mode taking an interrupt is the protected-mode delivery. -/
theorem deliver_of_not_real {s : State} (hm : mode s ≠ .real) (n : Nat) (kind : Kind) (ret : Word) :
    deliver s n kind ret = deliverProtected s n kind ret := by
  unfold deliver
  split
  · exact absurd ‹_› hm
  · rfl
  · rfl

theorem exec_of_delivers_real {i : Instr} {s : State} {n : Nat} {ret : Word} (hd : Delivers i s n ret)
    (hm : mode s = .real) : exec i s = deliverReal s n ret := by
  rw [exec_of_delivers hd, deliver_of_real hm]

theorem exec_of_delivers_protected {i : Instr} {s : State} {n : Nat} {ret : Word} (hd : Delivers i s n ret)
    (hm : mode s ≠ .real) : exec i s = deliverProtected s n (instrKind i) ret := by
  rw [exec_of_delivers hd, deliver_of_not_real hm]

/-! ### The IDT entry -/

theorem insideIdt_iff (s : State) (size n : Nat) :
    insideIdt s size n = true ↔ size * n + (size - 1) ≤ s.idtr.limit.toNat := decide_eq_true_iff

theorem insideIdt_eq_false_iff (s : State) (size n : Nat) :
    insideIdt s size n = false ↔ s.idtr.limit.toNat < size * n + (size - 1) := by
  rw [← Bool.not_eq_true, insideIdt_iff, Nat.not_le]

/-- The byte `j` of the entry for vector `n`. -/
theorem entryAddress_add (s : State) (size n j : Nat) :
    entryAddress s size n + BitVec.ofNat 32 j = s.idtr.base + BitVec.ofNat 32 (size * n + j) := by
  rw [entryAddress, BitVec.add_assoc, BitVec.ofNat_add]

/-- A frame meets the entry where a byte of the one is a byte of the other (20_memory.md R77). -/
theorem overlapsEntry_iff (s : State) (cells : List (Word × Byte)) (size n : Nat) :
    overlapsEntry cells (entryAddress s size n) size = true ↔
      ∃ c ∈ cells, ∃ j < size, c.1 = s.idtr.base + BitVec.ofNat 32 (size * n + j) := by
  have hcell (a : Word) : (a - entryAddress s size n).toNat < size ↔
      ∃ j < size, a = s.idtr.base + BitVec.ofNat 32 (size * n + j) := by
    constructor
    · intro h
      refine ⟨_, h, ?_⟩
      rw [← entryAddress_add, BitVec.ofNat_toNat, BitVec.setWidth_eq, BitVec.add_comm, BitVec.sub_add_cancel]
    · rintro ⟨j, hj, rfl⟩
      rw [← entryAddress_add, BitVec.add_comm, BitVec.add_sub_cancel, BitVec.toNat_ofNat]
      exact Nat.lt_of_le_of_lt (Nat.mod_le _ _) hj
  simp only [overlapsEntry, List.any_eq_true, decide_eq_true_eq, hcell]

/-! ### The frame in real-address mode -/

/-- In real-address mode a stack address depends on SP alone (20_memory.md R63). -/
theorem lin_ss_of_real {s : State} (hm : mode s = .real) (off : Word) :
    lin s .ss off = segBase s .ss + (off.setWidth 16).setWidth 32 := by
  rw [lin, effectiveOffset_of_not_prot (by simp [hm])]

/-- A 16-bit value zero-extended has itself as its low half. -/
theorem setWidth_word_half (v : Half) : (v.setWidth 32 : Word).setWidth 16 = v := by
  rw [BitVec.setWidth_setWidth_of_le v (by decide), BitVec.setWidth_eq]

/-- The byte `d` below SP is where a push that takes the pointer `d` down stores (20_memory.md R70). -/
theorem slotAt_realStack {s : State} (hm : mode s = .real) (d : Nat) : slotAt (realStack s) d = frameByte s d := by
  rw [frameByte, lin_ss_of_real hm, setWidth_word_half]
  simp only [slotAt, stackTop, realStack, Bool.false_eq_true, if_false, stackDown_small_sp]
  rfl

/-- A lowered SP names the same byte of the stack. -/
theorem lin_ss_stackDown {s : State} (hm : mode s = .real) (d : Nat) :
    lin s .ss (stackDown false s.gpr.esp d) = frameByte s d := by
  rw [← slotAt_realStack hm, lin_ss_of_real hm]
  rfl

/-- Where the top lies after a push on the real-address-mode stack. -/
theorem stackTop_pushed_realStack {s : State} (hm : mode s = .real) (v : Half) :
    stackTop (pushed (realStack s) (.half v)) = frameByte s 2 := slotAt_realStack hm 2

/-- The six addresses of the frame, in the order of the pushes (20_memory.md R71, R72). -/
theorem realFrameCells_addresses {s : State} (hm : mode s = .real) (ret : Word) :
    (realFrameCells s ret).map (·.1) = [frameByte s 2, frameByte s 2 + 1, frameByte s 4, frameByte s 4 + 1,
      frameByte s 6, frameByte s 6 + 1] := by
  simp only [← slotAt_realStack hm]
  simp [realFrameCells, realFrame, pushCells, slotData, bytes16, cellsAt, pushed, stackDown_stackDown, slotBytes,
    slotAt]

/-- Where the value at SP - `d` - 1 does not straddle offset 0xFFFF, its second byte lies `d` below SP. -/
theorem frameByte_succ_add_one {s : State} {d : Nat} (hm : mode s = .real) (hd : d < 65535)
    (hsp : sp s ≠ BitVec.ofNat 16 d) :
    frameByte s (d + 1) + 1 = frameByte s d := by
  have hwrap : ((sp s - BitVec.ofNat 16 (d + 1)).setWidth 32 : Word) + 1 = (sp s - BitVec.ofNat 16 d).setWidth 32 := by
    have hne : (sp s).toNat ≠ (BitVec.ofNat 16 d).toNat := fun h => hsp (BitVec.eq_of_toNat_eq h)
    have hlt := (sp s).isLt
    have hone : (1 : Word).toNat = 1 := rfl
    rw [BitVec.toNat_ofNat, Nat.mod_eq_of_lt (by omega)] at hne
    apply BitVec.eq_of_toNat_eq
    rw [BitVec.toNat_add, BitVec.toNat_setWidth_of_le (by decide), BitVec.toNat_setWidth_of_le (by decide),
      BitVec.toNat_sub, BitVec.toNat_sub, BitVec.toNat_ofNat, BitVec.toNat_ofNat,
      Nat.mod_eq_of_lt (a := d) (by omega), Nat.mod_eq_of_lt (a := d + 1) (by omega)]
    omega
  simp only [frameByte, lin_ss_of_real hm, BitVec.add_assoc, setWidth_word_half, hwrap]

/-- Where no push straddles, the frame is the six bytes below SP (20_memory.md R73). -/
theorem exists_mem_realFrameCells_iff {s : State} (hm : mode s = .real) (hsp : ¬(sp s = 1 ∨ sp s = 3 ∨ sp s = 5))
    (ret : Word) (p : Word → Prop) :
    (∃ c ∈ realFrameCells s ret, p c.1) ↔ ∃ k ∈ List.range' 1 6, p (frameByte s k) := by
  obtain ⟨h1, h3, h5⟩ : sp s ≠ 1 ∧ sp s ≠ 3 ∧ sp s ≠ 5 := by simpa using hsp
  have hmap : (∃ c ∈ realFrameCells s ret, p c.1) ↔ ∃ a ∈ (realFrameCells s ret).map (·.1), p a := by simp
  rw [hmap, realFrameCells_addresses hm, frameByte_succ_add_one (d := 1) hm (by decide) h1,
    frameByte_succ_add_one (d := 3) hm (by decide) h3, frameByte_succ_add_one (d := 5) hm (by decide) h5]
  simp only [List.range', List.mem_cons, List.not_mem_nil, or_false, exists_eq_or_imp, exists_eq_left]
  -- The two sides list the two bytes of each value in opposite orders.
  exact or_left_comm.trans (or_congr_right (or_congr_right
    (or_left_comm.trans (or_congr_right (or_congr_right or_comm)))))

/-- The overlap test of the delivery is `RealOverlap` (20_memory.md R77). -/
theorem overlapsEntry_realFrameCells_iff {s : State} (hm : mode s = .real)
    (hsp : ¬(sp s = 1 ∨ sp s = 3 ∨ sp s = 5)) (n : Nat) (ret : Word) :
    overlapsEntry (realFrameCells s ret) (entryAddress s Config.ivtEntryBytes n) Config.ivtEntryBytes = true ↔
      RealOverlap s n := by
  rw [overlapsEntry_iff, exists_mem_realFrameCells_iff hm hsp ret
    (fun a => ∃ j < Config.ivtEntryBytes, a = s.idtr.base + BitVec.ofNat 32 (Config.ivtEntryBytes * n + j))]
  simp only [RealOverlap, List.mem_range]
  rfl

theorem realFrameStraddles_iff (s : State) : realFrameStraddles s = true ↔ sp s = 1 ∨ sp s = 3 ∨ sp s = 5 :=
  decide_eq_true_iff

/-! ### Every answer of the real-address-mode delivery, with its condition (60_exceptions.md R134) -/

theorem deliverReal_of_limit {s : State} {n : Nat} (h : s.idtr.limit.toNat < 4 * n + 3) (ret : Word) :
    deliverReal s n ret = .fault (.gp none) := if_pos ((insideIdt_eq_false_iff s 4 n).2 h)

/-- Past the limit check the answer depends on the stack alone. -/
theorem deliverReal_of_inside {s : State} {n : Nat} (h : 4 * n + 3 ≤ s.idtr.limit.toNat) (ret : Word) :
    deliverReal s n ret =
      if realFrameStraddles s then .fault (.ss none)
      else if overlapsEntry (realFrameCells s ret) (entryAddress s Config.ivtEntryBytes n) Config.ivtEntryBytes then
        .refused .frameOverlapsIdtEntry
      else .next (enterReal s (entryAddress s Config.ivtEntryBytes n) ret) :=
  if_neg (by rw [Bool.not_eq_false]; exact (insideIdt_iff s 4 n).2 h)

theorem deliverReal_of_straddle {s : State} {n : Nat} (h : 4 * n + 3 ≤ s.idtr.limit.toNat)
    (hsp : sp s = 1 ∨ sp s = 3 ∨ sp s = 5) (ret : Word) : deliverReal s n ret = .fault (.ss none) := by
  rw [deliverReal_of_inside h, if_pos ((realFrameStraddles_iff s).2 hsp)]

theorem deliverReal_of_overlap {s : State} {n : Nat} (hm : mode s = .real) (h : 4 * n + 3 ≤ s.idtr.limit.toNat)
    (hsp : ¬(sp s = 1 ∨ sp s = 3 ∨ sp s = 5)) (ho : RealOverlap s n) (ret : Word) :
    deliverReal s n ret = .refused .frameOverlapsIdtEntry := by
  rw [deliverReal_of_inside h, if_neg (mt (realFrameStraddles_iff s).1 hsp),
    if_pos ((overlapsEntry_realFrameCells_iff hm hsp n ret).2 ho)]

theorem deliverReal_of_boot {s : State} {n : Nat} (hm : mode s = .real) (h : RealBoot s n) (ret : Word) :
    deliverReal s n ret = .next (enterReal s (entryAddress s Config.ivtEntryBytes n) ret) := by
  obtain ⟨hlimit, hsp, ho⟩ := h
  rw [deliverReal_of_inside hlimit, if_neg (mt (realFrameStraddles_iff s).1 hsp),
    if_neg (mt (overlapsEntry_realFrameCells_iff hm hsp n ret).1 ho)]

/-- The set-up of 70_reset_and_hazards.md R183 is what every next state of a delivery had. -/
theorem realBoot_of_deliverReal_next {s t : State} {n : Nat} {ret : Word} (hm : mode s = .real)
    (h : deliverReal s n ret = .next t) : RealBoot s n := by
  have hlimit : 4 * n + 3 ≤ s.idtr.limit.toNat := by
    refine Nat.le_of_not_lt fun hl => ?_
    rw [deliverReal_of_limit hl] at h
    cases h
  have hsp : ¬(sp s = 1 ∨ sp s = 3 ∨ sp s = 5) := by
    intro hs
    rw [deliverReal_of_straddle hlimit hs] at h
    cases h
  refine ⟨hlimit, hsp, fun ho => ?_⟩
  rw [deliverReal_of_overlap hm hlimit hsp ho] at h
  cases h

/-- An instruction that delivers in real-address mode, set up for it, enters the handler. -/
theorem exec_of_realBoot {i : Instr} {s : State} {n : Nat} {ret : Word} (hd : Delivers i s n ret) (hm : mode s = .real)
    (hb : RealBoot s n) : exec i s = .next (enterReal s (s.idtr.base + BitVec.ofNat 32 (4 * n)) ret) := by
  rw [exec_of_delivers_real hd hm, deliverReal_of_boot hm hb]
  rfl

/-! ### The state after it -/

/-- The three pushes take SP 6 down (20_memory.md R72). -/
theorem enterReal_esp (s : State) (ea ret : Word) : (enterReal s ea ret).gpr.esp = stackDown false s.gpr.esp 6 := by
  rw [enterReal_gpr, pushedAll_eq]
  rfl

/-- SS stays, so a stack address is the same before and after. -/
theorem lin_ss_enterReal {s : State} (hm : mode s = .real) (ea ret off : Word) :
    lin (enterReal s ea ret) .ss off = lin s .ss off := by
  have hbase : segBase (enterReal s ea ret) .ss = segBase s .ss := by
    rw [segBase_eq_selectorBase (.inr ⟨mode_enterReal hm ea ret, by simp⟩),
      segBase_eq_selectorBase (.inr ⟨hm, by simp⟩)]
    rfl
  rw [lin_ss_of_real (mode_enterReal hm ea ret), lin_ss_of_real hm, hbase]

/-- Flags cleared, by the positions of their bits. -/
theorem getLsbD_clearFlags_positions {fs : List Flag} {ps : List Nat} (h : fs.map flagPos = ps) (w : Word) (j : Nat) :
    (clearFlags fs w).getLsbD j = (w.getLsbD j && decide (j ∉ ps)) := by
  have hall : fs.all (fun f => decide (j ≠ flagPos f)) = decide (j ∉ fs.map flagPos) := by
    rw [Bool.eq_iff_iff]
    simp only [List.all_eq_true, decide_eq_true_eq, List.mem_map, not_exists, not_and]
    exact forall₂_congr fun f _ => ne_comm
  rw [getLsbD_clearFlags, hall, h]

/-- The flags after a real-address-mode delivery (60_exceptions.md R139, row 1). -/
theorem getLsbD_enterReal_eflags (s : State) (ea ret : Word) (j : Nat) :
    (enterReal s ea ret).eflags.getLsbD j = (s.eflags.getLsbD j && decide (j ≠ 8 ∧ j ≠ 9 ∧ j ≠ 18)) := by
  rw [enterReal_eflags, getLsbD_clearFlags_positions (ps := [9, 8, 18]) rfl]
  simp [and_left_comm]

/-- The three values of the frame read back in their slots (20_memory.md R71, R72). -/
theorem read16_realFrame {s : State} (hm : mode s = .real) (ea ret : Word) :
    read16 (enterReal s ea ret) (frameByte s 2) = flagsImage16 s.eflags ∧
    read16 (enterReal s ea ret) (frameByte s 4) = s.cs.sel ∧
    read16 (enterReal s ea ret) (frameByte s 6) = ret.setWidth 16 := by
  have hbytes : slotsBytes (realFrame s ret) ≤ 64 := (by decide : 6 ≤ 64)
  rw [← slotAt_realStack hm, ← slotAt_realStack hm, ← slotAt_realStack hm]
  refine ⟨?_, ?_, ?_⟩
  · exact read16_pushed (p := []) (enterReal_mem s ea ret) rfl hbytes rfl
  · exact read16_pushed (p := [.half (flagsImage16 s.eflags)]) (enterReal_mem s ea ret) rfl hbytes rfl
  · exact read16_pushed (p := [.half (flagsImage16 s.eflags), .half s.cs.sel]) (enterReal_mem s ea ret) rfl hbytes rfl

/-- Bytes outside the frame stay (20_memory.md R76). -/
theorem readByte_enterReal_of_ne {s : State} (hm : mode s = .real) (hsp : ¬(sp s = 1 ∨ sp s = 3 ∨ sp s = 5))
    (ea ret : Word) {a : Word} (ha : ∀ k, 1 ≤ k → k ≤ 6 → a ≠ frameByte s k) :
    readByte (enterReal s ea ret) a = readByte s a := by
  refine writeCells_read_of_not_mem s (realFrameCells s ret) a fun c hc hca => ?_
  obtain ⟨k, hk, hka⟩ := (exists_mem_realFrameCells_iff hm hsp ret (· = a)).1 ⟨c, hc, hca⟩
  rw [List.mem_range'_1] at hk
  exact ha k (by omega) (by omega) hka.symm

/-! ### The frame popped (60_exceptions.md R144) -/

/-- A pop takes back part of what pushes took off SP. -/
theorem stackUp_stackDown (e : Word) (c d : Nat) : stackUp (stackDown false e (c + d)) c = stackDown false e d := by
  refine word_ext_halves ?_ ?_
  · rw [stackUp_sp, stackDown_small_sp, stackDown_small_sp, Nat.add_comm c d, BitVec.ofNat_add, ← BitVec.sub_sub,
      BitVec.sub_add_cancel]
  · rw [stackUp_high, stackDown_small_high, stackDown_small_high]

/-- A return offset of real-address mode is its low half zero-extended (10_state.md R21). -/
theorem setWidth_half_of_high_half {w : Word} (h : w.extractLsb' 16 16 = 0) :
    ((w.setWidth 16).setWidth 32 : Word) = w := by
  rw [setWidth_half_word, Nat.mod_eq_of_lt ((high_half_eq_zero_iff w).1 h), BitVec.ofNat_toNat, BitVec.setWidth_eq]

/-- Popping the frame gives back what the delivery pushed, and SP. -/
theorem popFrameReal_enterReal {s : State} (hm : mode s = .real) (ea ret : Word) :
    (popFrameReal (enterReal s ea ret)).eip = (ret.setWidth 16).setWidth 32 ∧
    (popFrameReal (enterReal s ea ret)).cs.sel = s.cs.sel ∧
    (popFrameReal (enterReal s ea ret)).eflags.extractLsb' 0 16 = flagsImage16 s.eflags ∧
    (popFrameReal (enterReal s ea ret)).gpr = s.gpr := by
  obtain ⟨hflags, hcs, hip⟩ := read16_realFrame hm ea ret
  have hup (c d : Nat) (h : c + d = 6) : stackUp (enterReal s ea ret).gpr.esp c = stackDown false s.gpr.esp d := by
    rw [enterReal_esp, ← h, stackUp_stackDown]
  refine ⟨?_, ?_, ?_, ?_⟩
  · rw [popFrameReal_eip, lin_ss_enterReal hm, enterReal_esp, lin_ss_stackDown hm, hip]
  · rw [popFrameReal_cs, lin_ss_enterReal hm, hup 2 4 rfl, lin_ss_stackDown hm, hcs]
    rfl
  · rw [popFrameReal_eflags, lin_ss_enterReal hm, hup 4 2 rfl, lin_ss_stackDown hm, hflags,
      BitVec.extractLsb'_append_eq_of_add_le (by decide), BitVec.extractLsb'_eq_self]
  · rw [popFrameReal_gpr, hup 6 0 rfl, stackDown_zero]
    rfl

/-! ### The obligations -/

/-- Settles O17: only the limit check stands before the #SS test, and the addresses are the frame's at that SP. -/
theorem realStackWrapAndStraddle : Obligations.RealStackWrapAndStraddle := by
  unfold Obligations.RealStackWrapAndStraddle
  intro i s n ret hd hm hlimit
  have hbyte {off : Word} {d : Nat} (h : (sp s - BitVec.ofNat 16 d).setWidth 32 = off) :
      frameByte s d = lin s .ss off := by rw [frameByte, h]
  refine ⟨⟨fun h => ?_, fun hsp => ?_⟩, fun v vs h0 => ?_, fun h4 => ?_⟩
  · by_contra hsp
    rw [exec_of_delivers_real hd hm, deliverReal_of_inside hlimit, if_neg (mt (realFrameStraddles_iff s).1 hsp)] at h
    split at h
    · cases h
    · cases h
  · rw [exec_of_delivers_real hd hm, deliverReal_of_straddle hlimit hsp]
  · rw [pushCells, stackTop_pushed_realStack hm, hbyte (d := 2) (off := 0xFFFE) (by rw [h0]; rfl)]
    rfl
  · rw [realFrameCells_addresses hm, hbyte (d := 2) (off := 2) (by rw [h4]; rfl),
      hbyte (d := 4) (off := 0) (by rw [h4]; rfl), hbyte (d := 6) (off := 0xFFFE) (by rw [h4]; rfl)]

/-- Settles O19: the fields of `enterReal`, the delivery being set up. -/
theorem realDeliveryRegisters : Obligations.RealDeliveryRegisters := by
  unfold Obligations.RealDeliveryRegisters
  intro i s n ret hd hm hb
  refine ⟨_, exec_of_realBoot hd hm hb, rfl, rfl, rfl, rfl, getLsbD_enterReal_eflags s _ ret, ?_, ?_, rfl⟩
  · rw [sp, enterReal_esp, stackDown_small_sp]
    rfl
  · rw [enterReal_esp, stackDown_small_high]

/-- Settles O20: the two 16-bit reads of the entry, byte by byte. -/
theorem realVectorLayout : Obligations.RealVectorLayout := by
  unfold Obligations.RealVectorLayout
  intro i s n ret hd hm hb
  have haddr (j : Nat) : s.idtr.base + BitVec.ofNat 32 (4 * n + j) =
      s.idtr.base + BitVec.ofNat 32 (4 * n) + BitVec.ofNat 32 j := by rw [BitVec.add_assoc, BitVec.ofNat_add]
  refine ⟨_, exec_of_realBoot hd hm hb, ?_, ?_⟩
  · rw [haddr 1]
    rfl
  · rw [haddr 3, haddr 2, show BitVec.ofNat 32 3 = BitVec.ofNat 32 2 + 1 from rfl, ← BitVec.add_assoc]
    rfl

/-- Settles O21: what was pushed reads back (`read16_realFrame`). -/
theorem realDeliveryStack : Obligations.RealDeliveryStack := by
  unfold Obligations.RealDeliveryStack
  intro i s n ret hd hm hb
  obtain ⟨hflags, hcs, hip⟩ := read16_realFrame hm (s.idtr.base + BitVec.ofNat 32 (4 * n)) ret
  exact ⟨_, exec_of_realBoot hd hm hb, hflags, hcs, hip.trans (BitVec.setWidth_eq_extractLsb' (by decide))⟩

/-- Settles O22: `enterReal` writes the fields named, and the six bytes of a frame that does not straddle. -/
theorem realDeliveryFrame : Obligations.RealDeliveryFrame := by
  unfold Obligations.RealDeliveryFrame
  intro i s n ret t hd hm ht
  rw [exec_of_delivers_real hd hm] at ht
  obtain ⟨-, hsp, -⟩ := realBoot_of_deliverReal_next hm ht
  obtain rfl := deliverReal_next ht
  refine ⟨rfl, rfl, rfl, rfl, ?_, fun j h8 h9 h18 => ?_, fun a ha => readByte_enterReal_of_ne hm hsp _ ret ha⟩
  · rw [enterReal_esp, stackDown_small_high]
  · rw [getLsbD_enterReal_eflags, decide_eq_true ⟨h8, h9, h18⟩, Bool.and_true]

/-- Settles O23: each condition that fails stops the delivery, and with all of them it enters the handler. -/
theorem realCompletesExactlyWhenSetUp : Obligations.RealCompletesExactlyWhenSetUp := by
  unfold Obligations.RealCompletesExactlyWhenSetUp
  intro i s n ret hd hm
  constructor
  · rintro ⟨t, ht⟩
    rw [exec_of_delivers_real hd hm] at ht
    exact realBoot_of_deliverReal_next hm ht
  · exact fun hb => ⟨_, exec_of_realBoot hd hm hb⟩

/-- Settles O24: the frame popped gives back what was pushed, and the return offset was below 2^16. -/
theorem returnFrameUndoesRealDelivery : Obligations.ReturnFrameUndoesRealDelivery := by
  unfold Obligations.ReturnFrameUndoesRealDelivery
  intro i s n ret hd hm hb
  obtain ⟨heip, hcs, hflags, hgpr⟩ := popFrameReal_enterReal hm (s.idtr.base + BitVec.ofNat 32 (4 * n)) ret
  have hret : ret.extractLsb' 16 16 = 0 := hd.ret_eq ▸ high_half_nextOffset (by simp [hm]) _
  exact ⟨_, exec_of_realBoot hd hm hb, heip.trans (setWidth_half_of_high_half hret), hcs, hflags, hgpr, rfl⟩

end Sys2Proof.Machine
end

section
/-! PROOFS. The family 'other', delivery through a gate (60_exceptions.md R135 to R140;
20_memory.md R67 to R72, R77). -/

namespace Sys2Proof.Machine

/-! ### The gate checks, each with its condition (60_exceptions.md R137, steps 1 to 5) -/

theorem checkedGate_of_limit {s : State} {n : Nat} (h : s.idtr.limit.toNat < 8 * n + 7) :
    checkedGate s n = .error (.fault (.gp (some (idtErrorCode n)))) := if_pos ((insideIdt_eq_false_iff s 8 n).2 h)

/-- Past the limit check the answer depends on the gate alone. -/
theorem checkedGate_of_inside {s : State} {n : Nat} (h : 8 * n + 7 ≤ s.idtr.limit.toNat) :
    checkedGate s n =
      if (idtGate s n).kind = .invalid then .error (gateStop s (.gp (some (idtErrorCode n))))
      else if (idtGate s n).dpl < s.cpl then .error (gateStop s (.gp (some (idtErrorCode n))))
      else if (idtGate s n).present = false then .error (gateStop s (.np (some (idtErrorCode n))))
      else .ok (idtGate s n) :=
  if_neg (by rw [Bool.not_eq_false]; exact (insideIdt_iff s 8 n).2 h)

theorem checkedGate_of_invalid {s : State} {n : Nat} (h : 8 * n + 7 ≤ s.idtr.limit.toNat)
    (hk : (idtGate s n).kind = .invalid) : checkedGate s n = .error (gateStop s (.gp (some (idtErrorCode n)))) := by
  rw [checkedGate_of_inside h, if_pos hk]

theorem checkedGate_of_dpl_lt {s : State} {n : Nat} (h : 8 * n + 7 ≤ s.idtr.limit.toNat)
    (hk : (idtGate s n).kind ≠ .invalid) (hd : (idtGate s n).dpl < s.cpl) :
    checkedGate s n = .error (gateStop s (.gp (some (idtErrorCode n)))) := by
  rw [checkedGate_of_inside h, if_neg hk, if_pos hd]

theorem checkedGate_of_not_present {s : State} {n : Nat} (h : 8 * n + 7 ≤ s.idtr.limit.toNat)
    (hk : (idtGate s n).kind ≠ .invalid) (hd : s.cpl ≤ (idtGate s n).dpl) (hp : (idtGate s n).present = false) :
    checkedGate s n = .error (gateStop s (.np (some (idtErrorCode n)))) := by
  rw [checkedGate_of_inside h, if_neg hk, if_neg (BitVec.not_lt.2 hd), if_pos hp]

/-- A failed gate check with nothing supplied is the refusal, whichever check it is (00_scope.md R4). -/
theorem checkedGate_of_default {s : State} {n : Nat} (h : 8 * n + 7 ≤ s.idtr.limit.toNat)
    (hdef : parametersAtDefault s = true)
    (hfail : (idtGate s n).kind = .invalid ∨ (idtGate s n).dpl < s.cpl ∨ (idtGate s n).present = false) :
    checkedGate s n = .error (.refuse .parametersAtDefault) := by
  rw [checkedGate_of_inside h]
  simp only [gateStop_default hdef]
  split
  · rfl
  · next hk =>
    split
    · rfl
    · next hd =>
      rw [if_pos ((hfail.resolve_left hk).resolve_left hd)]

/-! ### The protected-mode delivery past the gate checks -/

theorem deliverProtected_of_error {s : State} {n : Nat} {e : Stop} (h : checkedGate s n = .error e) (kind : Kind)
    (ret : Word) : deliverProtected s n kind ret = stopOutcome e := by
  simp only [deliverProtected, h]

theorem deliverProtected_of_task {s : State} {n : Nat} (h : GateAdmits s n) (hk : (idtGate s n).kind = .task)
    (kind : Kind) (ret : Word) : deliverProtected s n kind ret = taskSwitch s (idtGate s n).selector ret := by
  simp only [deliverProtected, (checkedGate_ok_iff s n _).2 ⟨rfl, h⟩, if_pos hk]

theorem deliverProtected_of_gate {s : State} {n : Nat} (h : GateAdmits s n) (hk : (idtGate s n).kind ≠ .task)
    (kind : Kind) (ret : Word) : deliverProtected s n kind ret = deliverThroughGate s n (idtGate s n) ret := by
  simp only [deliverProtected, (checkedGate_ok_iff s n _).2 ⟨rfl, h⟩, if_neg hk]

/-- 60_exceptions.md R138: a task gate is refused where one of the two task state segments is not supplied. -/
theorem taskSwitch_of_not_found {s : State} {sel : Half}
    (h : findTss sel s.tssTable = none ∨ findTss s.tr.sel s.tssTable = none) (ret : Word) :
    taskSwitch s sel ret = .refused .taskSwitchNotSupplied := by
  rcases taskSwitch_cases s sel ret with ⟨-, e⟩ | ⟨t, old, ht, hold, -⟩
  · exact e
  · simp [ht, hold] at h

theorem taskSwitch_of_raises {s : State} {sel : Half} {t old : Tss} {f : Fault} (ht : findTss sel s.tssTable = some t)
    (hold : findTss s.tr.sel s.tssTable = some old) (hf : t.raises = some f) (ret : Word) :
    taskSwitch s sel ret = .fault f := by
  simp only [taskSwitch, ht, hold, hf]

theorem taskSwitch_of_found {s : State} {sel : Half} {t old : Tss} (ht : findTss sel s.tssTable = some t)
    (hold : findTss s.tr.sel s.tssTable = some old) (hr : t.raises = none) (ret : Word) :
    taskSwitch s sel ret = .next (enterTask s sel t ret) := by
  simp only [taskSwitch, ht, hold, hr]

/-- A delivery whose gate checks fail ends as the failed check does. -/
theorem exec_of_gate_error {i : Instr} {s : State} {n : Nat} {ret : Word} {e : Stop} (hd : Delivers i s n ret)
    (hm : mode s ≠ .real) (h : checkedGate s n = .error e) : exec i s = stopOutcome e := by
  rw [exec_of_delivers_protected hd hm, deliverProtected_of_error h]

/-- A delivery through an interrupt or trap gate that passes the gate checks. -/
theorem exec_of_gate {i : Instr} {s : State} {n : Nat} {ret : Word} (hd : Delivers i s n ret) (hm : mode s ≠ .real)
    (h : GateAdmits s n) (hk : (idtGate s n).kind ≠ .task) : exec i s = deliverThroughGate s n (idtGate s n) ret := by
  rw [exec_of_delivers_protected hd hm, deliverProtected_of_gate h hk]

/-! ### The handler's code segment (60_exceptions.md R137, steps 7 and 8) -/

theorem handlerSegment_of_error {s : State} {g : Gate} {e : Stop} (h : loadCodeSegment s g.selector = .error e) :
    handlerSegment s g = .error e := by
  simp only [handlerSegment, h]

/-- Out of virtual-8086 mode a handler not at level 0 is #GP (60_exceptions.md R136). -/
theorem handlerSegment_of_v86 {s : State} {g : Gate} {hid : Hidden} {level : BitVec 2} (hm : mode s = .v86)
    (h : loadCodeSegment s g.selector = .ok (hid, level)) (hl : level ≠ 0) :
    handlerSegment s g = .error (.fault (.gp (some g.selector))) := by
  simp only [handlerSegment, h, if_pos (And.intro hm hl)]

theorem loadCodeSegment_of_none {s : State} (h : s.codeTable = none) (sel : Half) :
    loadCodeSegment s sel = .error (.refuse .loadCodeSegmentNotSupplied) := by
  simp only [loadCodeSegment, h]

theorem loadCodeSegment_of_not_found {s : State} {t : List CodeEntry} {sel : Half} (ht : s.codeTable = some t)
    (h : sel = 0 ∨ findCode s.ldtr.sel sel t = none) : loadCodeSegment s sel = .error (.fault (.gp (some sel))) := by
  simp only [loadCodeSegment, ht]
  split
  · rfl
  · next hs => simp only [h.resolve_left hs]

theorem loadCodeSegment_of_found {s : State} {t : List CodeEntry} {sel : Half} {d : CodeDesc}
    (ht : s.codeTable = some t) (hs : sel ≠ 0) (hd : findCode s.ldtr.sel sel t = some d) :
    loadCodeSegment s sel = checkCode sel s.cpl d := by
  simp only [loadCodeSegment, ht, if_neg hs, hd]

theorem checkCode_of_gp {sel : Half} {cpl : BitVec 2} {d : CodeDesc} (h : d.isCode = false ∨ cpl < d.dpl) :
    checkCode sel cpl d = .error (.fault (.gp (some sel))) := by
  unfold checkCode
  split
  · rfl
  · next hc => rw [if_pos (h.resolve_left hc)]

theorem checkCode_of_not_present {sel : Half} {cpl : BitVec 2} {d : CodeDesc} (hc : d.isCode = true) (hd : d.dpl ≤ cpl)
    (hp : d.present = false) : checkCode sel cpl d = .error (.fault (.np (some sel))) := by
  rw [checkCode, if_neg (by simp [hc]), if_neg (BitVec.not_lt.2 hd), if_pos hp]

theorem checkCode_of_ok {sel : Half} {cpl : BitVec 2} {d : CodeDesc} (hc : d.isCode = true) (hd : d.dpl ≤ cpl)
    (hp : d.present = true) : checkCode sel cpl d = .ok (d.hid, if d.conforming then cpl else d.dpl) := by
  rw [checkCode, if_neg (by simp [hc]), if_neg (BitVec.not_lt.2 hd), if_neg (by simp [hp])]

theorem deliverThroughGate_of_segment {s : State} {n : Nat} {g : Gate} {e : Stop} (h : handlerSegment s g = .error e)
    (ret : Word) : deliverThroughGate s n g ret = stopOutcome e := by
  simp only [deliverThroughGate, h]

/-- A delivery past the gate checks whose code segment fails a check ends as that check does. -/
theorem exec_of_segment_error {i : Instr} {s : State} {n : Nat} {ret : Word} {e : Stop} (hd : Delivers i s n ret)
    (hm : mode s ≠ .real) (ha : GateAdmits s n) (hk : (idtGate s n).kind ≠ .task)
    (h : handlerSegment s (idtGate s n) = .error e) : exec i s = stopOutcome e := by
  rw [exec_of_gate hd hm ha hk, deliverThroughGate_of_segment h]

/-! ### The stack, and the frame on it (60_exceptions.md R137, steps 10 and 11) -/

theorem stackSwitch_of_not_found {s : State} (h : findTss s.tr.sel s.tssTable = none) (level : BitVec 2) :
    stackSwitch s level = .error (.refuse .stackSwitchNotSupplied) := by
  simp only [stackSwitch, h, Option.bind_none]

theorem stackSwitch_of_raises {s : State} {t : Tss} {level : BitVec 2} {f : Fault}
    (ht : findTss s.tr.sel s.tssTable = some t) (h : tssStack t level = some (.raises f)) :
    stackSwitch s level = .error (.fault f) := by
  simp only [stackSwitch, ht, Option.bind_some, h]

theorem handlerStack_of_error {s : State} {level : BitVec 2} {e : Stop} (hl : level < s.cpl)
    (h : stackSwitch s level = .error e) : handlerStack s level = .error e := by
  simp only [handlerStack, if_pos hl, h]

/-- Without a level change the frame goes on the current stack. -/
theorem handlerStack_ok_of_same_level {s : State} {level : BitVec 2} {ss : SegReg} {k : Stack} (hl : ¬level < s.cpl)
    (h : handlerStack s level = .ok (ss, k)) : ss = s.ss := by
  rw [handlerStack, if_neg hl] at h
  simp only [Except.ok.injEq, Prod.mk.injEq] at h
  exact h.1.symm

theorem deliverThroughGate_of_stack {s : State} {n : Nat} {g : Gate} {hid : Hidden} {level : BitVec 2} {e : Stop}
    (hs : handlerSegment s g = .ok (hid, level)) (h : handlerStack s level = .error e) (ret : Word) :
    deliverThroughGate s n g ret = stopOutcome e := by
  simp only [deliverThroughGate, hs, h]

/-- With a segment and a stack the answer depends on the overlap test alone. -/
theorem deliverThroughGate_of_ok {s : State} {n : Nat} {g : Gate} {hid : Hidden} {level : BitVec 2} {ss : SegReg}
    {k : Stack} (hs : handlerSegment s g = .ok (hid, level)) (hk : handlerStack s level = .ok (ss, k)) (ret : Word) :
    deliverThroughGate s n g ret =
      if overlapsEntry (pushCells k (gateFrame s g.wide level ret)) (entryAddress s Config.idtEntryBytes n)
          Config.idtEntryBytes then .refused .frameOverlapsIdtEntry
      else .next (enterGate s g hid level ss k ret) := by
  simp only [deliverThroughGate, hs, hk]

/-- An instruction that delivers through a ready gate enters the handler. -/
theorem exec_of_gateReady {i : Instr} {s : State} {n : Nat} {ret : Word} {hid : Hidden} {level : BitVec 2} {ss : SegReg}
    {k : Stack} (hd : Delivers i s n ret) (hm : mode s ≠ .real) (h : GateReady s n ret hid level ss k) :
    exec i s = .next (enterGate s (idtGate s n) hid level ss k ret) := by
  obtain ⟨hadmits, htask, hseg, hstack, hapart⟩ := h
  rw [exec_of_gate hd hm hadmits htask, deliverThroughGate_of_ok hseg hstack, if_neg]
  rw [overlapsEntry_iff]
  rintro ⟨c, hc, j, hj, e⟩
  exact hapart c hc j hj e

/-! ### The obligations about stops -/

/-- Settles O16: the limit check stands first in the delivery of either mode. -/
theorem idtLimitFaults : Obligations.IdtLimitFaults := by
  unfold Obligations.IdtLimitFaults
  intro i s n ret hd
  refine ⟨fun hm h => ?_, fun hm h => ?_⟩
  · rw [exec_of_delivers_real hd hm, deliverReal_of_limit h]
  · exact exec_of_gate_error hd hm (checkedGate_of_limit h)

/-- Settles O18: in either mode the overlap test is the last before the next state. -/
theorem frameOverlapIsRefused : Obligations.FrameOverlapIsRefused := by
  unfold Obligations.FrameOverlapIsRefused
  intro i s n ret hd
  refine ⟨fun hm hlimit hsp ho => ?_, fun hid level ss k hm ha hk hseg hstack ho => ?_⟩
  · rw [exec_of_delivers_real hd hm, deliverReal_of_overlap hm hlimit hsp ho]
  · rw [exec_of_gate hd hm ha hk, deliverThroughGate_of_ok hseg hstack, if_pos]
    exact (overlapsEntry_iff s _ 8 n).2 ho

/-- Settles O30: each gate check in its order; it ends in the exception or, at default parameters, the refusal. -/
theorem gateChecksFault : Obligations.GateChecksFault := by
  unfold Obligations.GateChecksFault
  intro i s n ret hd hm hlimit
  refine ⟨fun hsup => ?_, fun hcode htss hfail => ?_⟩
  · have hstop {f : Fault} (h : checkedGate s n = .error (gateStop s f)) : exec i s = .fault f := by
      have hnot : parametersAtDefault s = false := by rw [← Bool.not_eq_true, parametersAtDefault_iff]; exact hsup
      exact exec_of_gate_error hd hm (gateStop_supplied hnot f ▸ h)
    exact ⟨fun hk => hstop (checkedGate_of_invalid hlimit hk),
      fun hk hdpl => hstop (checkedGate_of_dpl_lt hlimit hk hdpl),
      fun hk hdpl hp => hstop (checkedGate_of_not_present hlimit hk hdpl hp)⟩
  · exact exec_of_gate_error hd hm (checkedGate_of_default hlimit ((parametersAtDefault_iff s).2 ⟨hcode, htss⟩) hfail)

/-- Settles O31: each check of LoadCodeSegment in its order, and the level-0 check after it. -/
theorem codeSegmentChecksStop : Obligations.CodeSegmentChecksStop := by
  unfold Obligations.CodeSegmentChecksStop
  intro i s n ret hd hm ha hk
  have hstop {e : Stop} (h : loadCodeSegment s (idtGate s n).selector = .error e) : exec i s = stopOutcome e :=
    exec_of_segment_error hd hm ha hk (handlerSegment_of_error h)
  refine ⟨fun hc => hstop (loadCodeSegment_of_none hc _), fun t ht => ⟨fun h => ?_, fun d hs hfind => ?_⟩⟩
  · exact hstop (loadCodeSegment_of_not_found ht h)
  · have hload := loadCodeSegment_of_found ht hs hfind
    refine ⟨fun h => ?_, fun hc hdpl hp => ?_, fun hc hdpl hp hv hl => ?_⟩
    · exact hstop (hload.trans (checkCode_of_gp h))
    · exact hstop (hload.trans (checkCode_of_not_present hc hdpl hp))
    · exact exec_of_segment_error hd hm ha hk (handlerSegment_of_v86 hv (hload.trans (checkCode_of_ok hc hdpl hp)) hl)

/-- Settles O32: StackSwitch is what stands between the code-segment checks and the frame. -/
theorem stackSwitchStops : Obligations.StackSwitchStops := by
  unfold Obligations.StackSwitchStops
  intro i s n ret hid level hd hm ha hk hseg hl
  have hstop {e : Stop} (h : stackSwitch s level = .error e) : exec i s = stopOutcome e := by
    rw [exec_of_gate hd hm ha hk, deliverThroughGate_of_stack hseg (handlerStack_of_error hl h)]
  refine ⟨fun h => hstop (stackSwitch_of_not_found h level),
    fun t f ht => ⟨fun h0 h => ?_, fun h1 h => ?_, fun h2 h => ?_⟩⟩
  · exact hstop (stackSwitch_of_raises ht (by rw [h0, ← h]; rfl))
  · exact hstop (stackSwitch_of_raises ht (by rw [h1, ← h]; rfl))
  · exact hstop (stackSwitch_of_raises ht (by rw [h2, ← h]; rfl))

/-- Settles O48: a failed gate check is refused, and what passes the checks finds no code segment and no task. -/
theorem defaultParametersRefuse : Obligations.DefaultParametersRefuse := by
  unfold Obligations.DefaultParametersRefuse
  intro i s n ret hd hm hlimit hcode htss
  have hdef := (parametersAtDefault_iff s).2 ⟨hcode, htss⟩
  by_cases hfail : (idtGate s n).kind = .invalid ∨ (idtGate s n).dpl < s.cpl ∨ (idtGate s n).present = false
  · exact ⟨_, exec_of_gate_error hd hm (checkedGate_of_default hlimit hdef hfail)⟩
  · obtain ⟨hk, hdpl, hp⟩ :
        (idtGate s n).kind ≠ .invalid ∧ ¬(idtGate s n).dpl < s.cpl ∧ ¬(idtGate s n).present = false := by
      simpa only [not_or] using hfail
    have ha : GateAdmits s n := ⟨hlimit, hk, BitVec.not_lt.1 hdpl, by simpa using hp⟩
    by_cases htask : (idtGate s n).kind = .task
    · refine ⟨.taskSwitchNotSupplied, ?_⟩
      rw [exec_of_delivers_protected hd hm, deliverProtected_of_task ha htask,
        taskSwitch_of_not_found (.inl (by rw [htss]; rfl))]
    · exact ⟨_, exec_of_segment_error hd hm ha htask (handlerSegment_of_error (loadCodeSegment_of_none hcode _))⟩

end Sys2Proof.Machine
end

section
/-! PROOFS. The family 'other', the states a delivery through a gate leads to: registers, frame and what stays
(60_exceptions.md R137 to R139; 20_memory.md R71, R72), and what that says of every step (10_state.md R37). -/

namespace Sys2Proof.Machine

/-! ### The frame through a gate (60_exceptions.md R137, steps 10 and 11) -/

/-- Outside real-address mode the data segments are pushed on a level change in virtual-8086 mode. -/
theorem usesV86Frame_iff {s : State} (hm : mode s ≠ .real) (level : BitVec 2) :
    usesV86Frame s level = true ↔ mode s = .v86 ∧ level < s.cpl := by
  rw [usesV86Frame, Bool.and_eq_true, decide_eq_true_eq, mode_eq_v86_iff, (mode_ne_real_iff s).1 hm]
  tauto

theorem gateFrame_same_level {s : State} {level : BitVec 2} (hl : ¬level < s.cpl) (wide : Bool) (ret : Word) :
    gateFrame s wide level ret = [valueSlot wide s.eflags, selectorSlot s wide 5 s.cs.sel, valueSlot wide ret] := by
  simp only [gateFrame, usesV86Frame, decide_eq_false hl, Bool.false_and, Bool.false_eq_true, if_false, if_neg hl,
    List.nil_append]

theorem gateFrame_level_change {s : State} {level : BitVec 2} (hm : mode s = .prot) (hl : level < s.cpl) (wide : Bool)
    (ret : Word) :
    gateFrame s wide level ret = [selectorSlot s wide 4 s.ss.sel, valueSlot wide s.gpr.esp, valueSlot wide s.eflags,
      selectorSlot s wide 5 s.cs.sel, valueSlot wide ret] := by
  have hv : ¬usesV86Frame s level = true := by simp [usesV86Frame_iff, hm]
  simp only [gateFrame, if_neg hv, if_pos hl, List.nil_append, List.cons_append]

theorem gateFrame_from_v86 {s : State} {level : BitVec 2} (hm : mode s = .v86) (hl : level < s.cpl) (wide : Bool)
    (ret : Word) :
    gateFrame s wide level ret = [wideSelector s 0 s.gs.sel, wideSelector s 1 s.fs.sel, wideSelector s 2 s.ds.sel,
      wideSelector s 3 s.es.sel, selectorSlot s wide 4 s.ss.sel, valueSlot wide s.gpr.esp, valueSlot wide s.eflags,
      selectorSlot s wide 5 s.cs.sel, valueSlot wide ret] := by
  have hv : usesV86Frame s level = true := by simp [usesV86Frame_iff, hm, hl]
  simp only [gateFrame, v86Slots, if_pos hv, if_pos hl, List.nil_append, List.cons_append]

/-- How many bytes the frame takes (20_memory.md R72). -/
theorem slotsBytes_gateFrame {s : State} (hm : mode s ≠ .real) (wide : Bool) (level : BitVec 2) (ret : Word) :
    slotsBytes (gateFrame s wide level ret) =
      (if level < s.cpl then (if mode s = .v86 then 16 else 0) + (if wide = true then 8 else 4) else 0) +
        (if wide = true then 12 else 6) := by
  by_cases hl : level < s.cpl
  · rw [if_pos hl]
    cases hmode : mode s with
    | real => exact absurd hmode hm
    | prot =>
      rw [gateFrame_level_change hmode hl]
      cases wide <;> rfl
    | v86 =>
      rw [gateFrame_from_v86 hmode hl]
      cases wide <;> rfl
  · rw [gateFrame_same_level hl, if_neg hl]
    cases wide <;> rfl

/-! ### A value of the frame, by its place among the pushes -/

theorem eq_take_append_drop {vs : List Slot} {i : Nat} {v : Slot} (h : vs[i]? = some v) :
    vs = vs.take i ++ v :: vs.drop (i + 1) := by
  obtain ⟨hi, rfl⟩ := List.getElem?_eq_some_iff.1 h
  rw [List.getElem_cons_drop, List.take_append_drop]

theorem slotsBytes_take_succ {vs : List Slot} {i : Nat} {v : Slot} (h : vs[i]? = some v) :
    slotsBytes (vs.take (i + 1)) = slotsBytes (vs.take i) + slotBytes v := by
  rw [List.take_add_one, h]
  simp [slotsBytes]

section
variable {s t : State} {k : Stack} {vs : List Slot} (hmem : t.mem = writeCells s (pushCells k vs))
  (ht : slotsBytes vs ≤ 64) {i d : Nat} (hd : d = slotsBytes (vs.take (i + 1)))
include hmem ht hd

theorem read16_half_at {v : Half} (hi : vs[i]? = some (.half v)) : read16 t (slotAt k d) = v :=
  read16_pushed hmem (eq_take_append_drop hi) ht (hd.trans (slotsBytes_take_succ hi))

theorem read32_word_at {v : Word} (hi : vs[i]? = some (.word v)) : read32 t (slotAt k d) = v :=
  read32_pushed hmem (eq_take_append_drop hi) ht (hd.trans (slotsBytes_take_succ hi))

/-- A selector in a 32-bit slot stands in its low half (20_memory.md R72). -/
theorem read16_wideSelector_at {c : Nat} {sel : Half} (hi : vs[i]? = some (wideSelector s c sel)) :
    read16 t (slotAt k d) = sel := by
  rw [read16_pushed_word hmem (eq_take_append_drop hi) ht (hd.trans (slotsBytes_take_succ hi)),
    BitVec.extractLsb'_append_eq_of_add_le (by decide), BitVec.extractLsb'_eq_self]

/-- A 32-bit value in a 16-bit slot is its low half (20_memory.md R72). -/
theorem read16_low_half_at {v : Word} (hi : vs[i]? = some (valueSlot false v)) :
    read16 t (slotAt k d) = v.extractLsb' 0 16 :=
  (read16_half_at hmem ht hd hi).trans (BitVec.setWidth_eq_extractLsb' (by decide))

end

/-! ### The handler's registers (60_exceptions.md R137, R139) -/

theorem getLsbD_interruptGate (w : Word) (j : Nat) : (clearFlags interruptGateCleared w).getLsbD j =
    (w.getLsbD j && decide (j ≠ 8 ∧ j ≠ 9 ∧ j ≠ 14 ∧ j ≠ 16 ∧ j ≠ 17)) := by
  rw [getLsbD_clearFlags_positions (ps := [9, 8, 14, 17, 16]) rfl]
  congr 1
  rw [decide_eq_decide]
  simp only [List.mem_cons, List.not_mem_nil]
  tauto

theorem getLsbD_trapGate (w : Word) (j : Nat) : (clearFlags trapGateCleared w).getLsbD j =
    (w.getLsbD j && decide (j ≠ 8 ∧ j ≠ 14 ∧ j ≠ 16 ∧ j ≠ 17)) := by
  rw [getLsbD_clearFlags_positions (ps := [8, 14, 17, 16]) rfl]
  congr 1
  rw [decide_eq_decide]
  simp only [List.mem_cons, List.not_mem_nil]
  tauto

/-- The pushes leave the stack pointer the bytes of the frame lower (20_memory.md R70). -/
theorem enterGate_esp (s : State) (g : Gate) (hid : Hidden) (level : BitVec 2) (ss : SegReg) (k : Stack) (ret : Word) :
    (enterGate s g hid level ss k ret).gpr.esp =
      stackDown k.big k.esp (slotsBytes (gateFrame s g.wide level ret)) := by
  rw [enterGate_gpr, pushedAll_eq]

/-- A data segment register is loaded with 0 on a level change out of virtual-8086 mode, and else stays. -/
theorem dataSegAfter_eq {s : State} (hm : mode s ≠ .real) (level : BitVec 2) (r : SegReg) :
    dataSegAfter s level r = if mode s = .v86 ∧ level < s.cpl then clearedSeg else r := by
  simp only [dataSegAfter, usesV86Frame_iff hm]

/-! ### A task switch (60_exceptions.md R137, R138) -/

/-- The task state segments after a switch: the new one, the outgoing one, and the others as they were. -/
theorem findTss_switchedTssTable (s : State) (sel sel' : Half) (ret : Word) :
    findTss sel' (switchedTssTable s sel ret) =
      (if sel' = s.tr.sel then (findTss sel' s.tssTable).map fun t => { t with ctx := saveContext s ret }
        else findTss sel' s.tssTable).map
          fun t => if sel' = sel then { t with backLink := s.tr.sel, busy := true } else t := by
  rw [switchedTssTable, findTss_updateTss, findTss_updateTss]
  split
  · rfl
  · exact Option.map_id'.symm

/-! ### The obligations about next states -/

/-- Settles O33: what `taskSwitch` answers, the fields of `enterTask`, and the lookups in the table it leaves. -/
theorem taskGateDelivery : Obligations.TaskGateDelivery := by
  unfold Obligations.TaskGateDelivery
  intro i s n ret hd hm ha hk
  have hexec : exec i s = taskSwitch s (idtGate s n).selector ret := by
    rw [exec_of_delivers_protected hd hm, deliverProtected_of_task ha hk]
  refine ⟨fun h => hexec.trans (taskSwitch_of_not_found h ret), fun tss old hnew hold => ⟨fun f hf => ?_, fun hr => ?_⟩⟩
  · exact hexec.trans (taskSwitch_of_raises hnew hold hf ret)
  · refine ⟨_, saveContext s ret, hexec.trans (taskSwitch_of_found hnew hold hr ret),
      fun j => getLsbD_setFlag .nt tss.ctx.eflags j, rfl, rfl, rfl, rfl, rfl, rfl, rfl,
      rfl, rfl, rfl, rfl, rfl, ⟨rfl, rfl, rfl, rfl, rfl, rfl, rfl, rfl⟩,
      ⟨rfl, rfl, rfl, rfl, rfl, rfl, rfl, rfl, rfl, rfl, rfl⟩, fun hne => ⟨?_, ?_⟩, fun heq => ?_, fun sel hn ho => ?_⟩
    · simp [findTss_switchedTssTable, hne, hnew]
    · simp [findTss_switchedTssTable, Ne.symm hne, hold]
    · simp [findTss_switchedTssTable, heq, hold]
    · simp [findTss_switchedTssTable, hn, ho]

/-- Settles O34: the fields of `enterGate`, which a delivery through a ready gate leads to. -/
theorem gateDeliveryRegisters : Obligations.GateDeliveryRegisters := by
  unfold Obligations.GateDeliveryRegisters
  intro i s n ret hid level ss k hd hm hready
  refine ⟨_, exec_of_gateReady hd hm hready, ?_, rfl, rfl, rfl, fun hk j => ?_, fun hk j => ?_, ?_, fun hv hl => ?_⟩
  · rw [enterGate_eip, gateOffset, BitVec.setWidth_eq_extractLsb' (v := 32) (w := 16) (by decide)]
  · rw [enterGate_eflags, hk]
    exact getLsbD_interruptGate s.eflags j
  · rw [enterGate_eflags, hk]
    exact getLsbD_trapGate s.eflags j
  · rw [enterGate_esp, slotsBytes_gateFrame hm]
  · have hcleared (r : SegReg) : (dataSegAfter s level r).sel = 0 := by rw [dataSegAfter_eq hm, if_pos ⟨hv, hl⟩]; rfl
    exact ⟨hcleared s.ds, hcleared s.es, hcleared s.fs, hcleared s.gs⟩

/-- Settles O35: three values, each read at its place. -/
theorem gateFrameSameLevel : Obligations.GateFrameSameLevel := by
  unfold Obligations.GateFrameSameLevel
  intro i s n ret hid level ss k hd hm hready hl
  have hmem := enterGate_mem s (idtGate s n) hid level ss k ret
  rw [gateFrame_same_level hl] at hmem
  refine ⟨_, exec_of_gateReady hd hm hready, fun hw => ?_, fun hw => ?_⟩
  · rw [hw] at hmem
    have hbytes := (by decide : 12 ≤ 64)
    exact ⟨read32_word_at (i := 0) hmem hbytes rfl rfl, read16_wideSelector_at (i := 1) hmem hbytes rfl rfl,
      read32_word_at (i := 2) hmem hbytes rfl rfl⟩
  · rw [hw] at hmem
    have hbytes := (by decide : 6 ≤ 64)
    exact ⟨read16_low_half_at (i := 0) hmem hbytes rfl rfl, read16_half_at (i := 1) hmem hbytes rfl rfl,
      read16_low_half_at (i := 2) hmem hbytes rfl rfl⟩

/-- Settles O36: the old SS and ESP first, then the three values, each read at its place. -/
theorem gateFrameLevelChange : Obligations.GateFrameLevelChange := by
  unfold Obligations.GateFrameLevelChange
  intro i s n ret hid level ss k hd hm hready hl
  have hmem := enterGate_mem s (idtGate s n) hid level ss k ret
  rw [gateFrame_level_change hm hl] at hmem
  refine ⟨_, exec_of_gateReady hd (by simp [hm]) hready, fun hw => ?_, fun hw => ?_⟩
  · rw [hw] at hmem
    have hbytes := (by decide : 20 ≤ 64)
    exact ⟨read16_wideSelector_at (i := 0) hmem hbytes rfl rfl, read32_word_at (i := 1) hmem hbytes rfl rfl,
      read32_word_at (i := 2) hmem hbytes rfl rfl, read16_wideSelector_at (i := 3) hmem hbytes rfl rfl,
      read32_word_at (i := 4) hmem hbytes rfl rfl⟩
  · rw [hw] at hmem
    have hbytes := (by decide : 10 ≤ 64)
    exact ⟨read16_half_at (i := 0) hmem hbytes rfl rfl, read16_low_half_at (i := 1) hmem hbytes rfl rfl,
      read16_low_half_at (i := 2) hmem hbytes rfl rfl, read16_half_at (i := 3) hmem hbytes rfl rfl,
      read16_low_half_at (i := 4) hmem hbytes rfl rfl⟩

/-- Settles O37: the four data segments first, in 32-bit slots through either gate, then the five values. -/
theorem gateFrameFromV86 : Obligations.GateFrameFromV86 := by
  unfold Obligations.GateFrameFromV86
  intro i s n ret hid level ss k hd hm hready hl
  have hmem := enterGate_mem s (idtGate s n) hid level ss k ret
  rw [gateFrame_from_v86 hm hl] at hmem
  have hbytes : slotsBytes (gateFrame s (idtGate s n).wide level ret) ≤ 64 := by
    rw [slotsBytes_gateFrame (by simp [hm]), if_pos hl, if_pos hm]
    split <;> decide
  rw [gateFrame_from_v86 hm hl] at hbytes
  refine ⟨_, exec_of_gateReady hd (by simp [hm]) hready, read16_wideSelector_at (i := 0) hmem hbytes rfl rfl,
    read16_wideSelector_at (i := 1) hmem hbytes rfl rfl, read16_wideSelector_at (i := 2) hmem hbytes rfl rfl,
    read16_wideSelector_at (i := 3) hmem hbytes rfl rfl, fun hw => ?_, fun hw => ?_⟩
  · rw [hw] at hmem hbytes
    exact ⟨read16_wideSelector_at (i := 4) hmem hbytes rfl rfl, read32_word_at (i := 5) hmem hbytes rfl rfl,
      read32_word_at (i := 6) hmem hbytes rfl rfl, read16_wideSelector_at (i := 7) hmem hbytes rfl rfl,
      read32_word_at (i := 8) hmem hbytes rfl rfl⟩
  · rw [hw] at hmem hbytes
    exact ⟨read16_half_at (i := 4) hmem hbytes rfl rfl, read16_low_half_at (i := 5) hmem hbytes rfl rfl,
      read16_low_half_at (i := 6) hmem hbytes rfl rfl, read16_half_at (i := 7) hmem hbytes rfl rfl,
      read16_low_half_at (i := 8) hmem hbytes rfl rfl⟩

/-- Settles O38: `enterGate` writes the fields named; SS and the data segments change only where it says so. -/
theorem gateDeliveryFrame : Obligations.GateDeliveryFrame := by
  unfold Obligations.GateDeliveryFrame
  intro i s n ret hid level ss k t hd hm hready ht
  rw [exec_of_gateReady hd hm hready] at ht
  cases ht
  refine ⟨rfl, fun hl => ?_, fun hv => ?_, fun hbig => ?_, fun a ha => ?_⟩
  · exact handlerStack_ok_of_same_level hl hready.stack
  · have hkept (r : SegReg) : dataSegAfter s level r = r := by rw [dataSegAfter_eq hm, if_neg hv]
    exact ⟨hkept s.ds, hkept s.es, hkept s.fs, hkept s.gs⟩
  · rw [enterGate_esp, hbig, stackDown_small_high]
  · exact writeCells_read_of_not_mem s _ a ha

/-! ### Every step (10_state.md R37) -/

/-- No instruction writes a system register, the parameter or the code table. -/
theorem exec_systemRegisters {i : Instr} {s t : State} (h : exec i s = .next t) :
    t.idtr = s.idtr ∧ t.gdtr = s.gdtr ∧ t.cr0PE = s.cr0PE ∧ t.cr4VME = s.cr4VME ∧
      t.intoIoplSensitive = s.intoIoplSensitive ∧ t.codeTable = s.codeTable := by
  rcases exec_next h with ⟨-, -, rfl⟩ | ⟨n, ret, -, hdel⟩
  · exact ⟨rfl, rfl, rfl, rfl, rfl, rfl⟩
  · rcases deliver_next hdel with ⟨-, rfl⟩ | ⟨-, hprot⟩
    · exact ⟨rfl, rfl, rfl, rfl, rfl, rfl⟩
    · obtain ⟨-, ⟨-, tss, old, -, -, rfl⟩ | ⟨-, hid, level, ss, k, -, -, rfl⟩⟩ := deliverProtected_next hprot
      · exact ⟨rfl, rfl, rfl, rfl, rfl, rfl⟩
      · exact ⟨rfl, rfl, rfl, rfl, rfl, rfl⟩

/-- Without a task gate an instruction leaves the task registers and every general register but ESP, and its CPL is not
above the old one (60_exceptions.md R137). -/
theorem exec_without_task_gate {i : Instr} {s t : State} (h : exec i s = .next t)
    (hgate : ∀ n ret, Delivers i s n ret → mode s ≠ .real → (idtGate s n).kind ≠ .task) :
    (t.ldtr = s.ldtr ∧ t.tr = s.tr ∧ t.tssTable = s.tssTable ∧ t.gpr = { s.gpr with esp := t.gpr.esp }) ∧
      t.cpl ≤ s.cpl := by
  rcases exec_next h with ⟨-, -, rfl⟩ | ⟨n, ret, hd, hdel⟩
  · exact ⟨⟨rfl, rfl, rfl, rfl⟩, BitVec.le_refl _⟩
  · rcases deliver_next hdel with ⟨-, rfl⟩ | ⟨hm, hprot⟩
    · exact ⟨⟨rfl, rfl, rfl, rfl⟩, BitVec.le_refl _⟩
    · obtain ⟨-, ⟨htask, -⟩ | ⟨-, hid, level, ss, k, hseg, -, rfl⟩⟩ := deliverProtected_next hprot
      · exact absurd htask (hgate n ret hd hm)
      · exact ⟨⟨rfl, rfl, rfl, rfl⟩, handlerSegment_level_le hseg⟩

/-- Settles O40: the step is the meaning of the one instruction its bytes decode to. -/
theorem systemRegistersAreNeverWritten : Obligations.SystemRegistersAreNeverWritten := by
  unfold Obligations.SystemRegistersAreNeverWritten
  intro s t h
  obtain ⟨-, i, rest, hdec, hexec⟩ := step_next h
  refine ⟨exec_systemRegisters hexec, fun i' rest' hdec' hgate => ?_⟩
  obtain ⟨rfl, rfl⟩ : i = i' ∧ rest = rest' := by simpa using hdec.symm.trans hdec'
  obtain ⟨hregs, -⟩ := exec_without_task_gate hexec hgate
  exact hregs

/-- Settles O42: only a handler's segment changes CPL, and its level is not above the old one. -/
theorem privilegeIsNeverLost : Obligations.PrivilegeIsNeverLost := by
  unfold Obligations.PrivilegeIsNeverLost
  intro i s t h hgate
  obtain ⟨-, hcpl⟩ := exec_without_task_gate h hgate
  exact hcpl

end Sys2Proof.Machine
end

section
/-! PROOFS. The family 'other', INTO, the virtual-8086 IOPL test, and IF (40_int.md R113 to R118; 60_exceptions.md
R145). -/

namespace Sys2Proof.Machine

/-! ### INTO, and the virtual-8086 IOPL test -/

/-- 40_int.md R118: INTO makes the IOPL test only with the parameter set. -/
theorem v86Check_ce_of_iopl_lt {s : State} (hm : mode s = .v86) (hp : s.intoIoplSensitive = true)
    (hi : iopl s.eflags < 3) : v86Check s .ce = some (.fault (.gp (some Config.gpV86ErrorCode))) := by
  simp only [v86Check, hm, hp, hi, reduceCtorEq, and_false, and_self, if_true, if_false]

/-- 40_int.md R116: with VME on INT imm8 is refused in virtual-8086 mode. -/
theorem v86Check_cd_of_vme {s : State} (hm : mode s = .v86) (hv : s.cr4VME = true) :
    v86Check s .cd = some (.refuse .vmeRedirection) := by
  simp only [v86Check, hm, hv, and_self, if_true]

/-- INTO with OF = 1 ends as the virtual-8086 test does, where that test stops it (40_int.md R113). -/
theorem execInto_of_v86Check {s : State} {stop : Stop} (ho : getFlag .ofl s.eflags = true)
    (h : v86Check s .ce = some stop) : execInto s = stopOutcome stop := by
  simp only [execInto, ho, h, Bool.true_eq_false, if_false]

/-- 40_int.md R113: INTO with OF = 0 only advances EIP. -/
theorem execInto_of_not_overflow {s : State} (ho : getFlag .ofl s.eflags = false) :
    execInto s = .next { s with eip := nextOffset s 1 } := if_pos ho

/-- An instruction that delivers in virtual-8086 mode is the protected-mode delivery. -/
theorem exec_of_delivers_v86 {i : Instr} {s : State} {n : Nat} {ret : Word} (hm : mode s = .v86)
    (hd : Delivers i s n ret) : exec i s = deliverProtected s n (instrKind i) ret :=
  exec_of_delivers_protected hd (by simp [hm])

/-- Settles O26: the sum `nextOffset` is, by mode (`nextOffsetWraps`). -/
theorem intoWithoutOverflowOnlyAdvances : Obligations.IntoWithoutOverflowOnlyAdvances := by
  unfold Obligations.IntoWithoutOverflowOnlyAdvances
  intro s ho
  obtain ⟨hreal, hprot⟩ := nextOffsetWraps s 1
  refine ⟨_, execInto_of_not_overflow ho, rfl, ?_⟩
  split
  · exact hprot ‹_›
  · exact hreal ‹_›

/-- Settles O27: where the test stops an instruction, and where the instruction reaches its delivery. -/
theorem v86IoplTest : Obligations.V86IoplTest := by
  unfold Obligations.V86IoplTest
  intro s ib hm
  refine ⟨fun hv => ?_, fun hv hi => ?_, fun hv hi => ?_, fun ho hp hi => ?_, fun ho _ hi => ?_, fun ho hp => ?_, ?_⟩
  · exact execIntImm8_of_v86Check (v86Check_cd_of_vme hm hv) ib
  · exact execIntImm8_of_v86Check (v86Check_cd_of_iopl_lt hm hv hi) ib
  · exact exec_of_delivers_v86 hm (i := .intImm8 ib) ⟨rfl, rfl, fun _ => ⟨hv, hi⟩⟩
  · exact execInto_of_v86Check ho (v86Check_ce_of_iopl_lt hm hp hi)
  · exact exec_of_delivers_v86 hm (i := .into) ⟨rfl, rfl, ho, fun _ _ => hi⟩
  · exact exec_of_delivers_v86 hm (i := .into) ⟨rfl, rfl, ho, fun _ hs => absurd hs (by simp [hp])⟩
  · exact exec_of_delivers_v86 hm (i := .int3) ⟨rfl, rfl⟩

/-- Settles O29: two clauses of the IOPL test, and the parameter's value after reset. -/
theorem intoIoplParameter : Obligations.IntoIoplParameter := by
  unfold Obligations.IntoIoplParameter
  refine ⟨rfl, fun s hm ho => ?_⟩
  obtain ⟨-, -, -, hfault, -, hdeliver, -⟩ := v86IoplTest s 0 hm
  exact ⟨hdeliver ho, hfault ho⟩

/-! ### IF in a delivery (60_exceptions.md R145) -/

/-- The words agree on every bit but IF. -/
def AgreeButIf (v w : Word) : Prop := ∀ j, j ≠ 9 → v.getLsbD j = w.getLsbD j

/-- The state with another EFLAGS. -/
def withEflags (w : Word) (s : State) : State := { s with eflags := w }

/-- What R145 says two next states agree on. -/
def NextAlike (a b : State) : Prop :=
  a.eip = b.eip ∧ a.cs = b.cs ∧ a.ss = b.ss ∧ a.ds = b.ds ∧ a.es = b.es ∧ a.fs = b.fs ∧ a.gs = b.gs ∧
    a.gpr = b.gpr ∧ a.cpl = b.cpl ∧ AgreeButIf a.eflags b.eflags

/-- Outcomes that end alike: the same fault, the same refusal, or next states that agree. -/
def EndAlike : Host.Outcome State Fault Refusal → Host.Outcome State Fault Refusal → Prop
  | .next a, .next b => NextAlike a b
  | .fault f, .fault g => f = g
  | .refused f, .refused g => f = g
  | _, _ => False

theorem endAlike_stopOutcome (e : Stop) : EndAlike (stopOutcome e) (stopOutcome e) := by
  cases e <;> rfl

/-- IF set and IF cleared differ in IF alone. -/
theorem agreeButIf_setFlag_clearFlag (w : Word) : AgreeButIf (setFlag .ifl w) (clearFlag .ifl w) := by
  intro j hj
  rw [getLsbD_setFlag, getLsbD_clearFlag, decide_eq_false (show j ≠ flagPos .ifl from hj),
    decide_eq_true (show j ≠ flagPos .ifl from hj), Bool.or_false, Bool.and_true]

theorem AgreeButIf.clearFlags {v w : Word} (h : AgreeButIf v w) (fs : List Flag) :
    AgreeButIf (clearFlags fs v) (clearFlags fs w) := by
  intro j hj
  rw [getLsbD_clearFlags, getLsbD_clearFlags, h j hj]

theorem AgreeButIf.getFlag_eq {v w : Word} (h : AgreeButIf v w) {f : Flag} (hf : f ≠ .ifl) :
    getFlag f v = getFlag f w := by
  refine h _ ?_
  cases f with
  | ifl => exact absurd rfl hf
  | _ => decide

theorem AgreeButIf.iopl_eq {v w : Word} (h : AgreeButIf v w) : iopl v = iopl w := by
  refine BitVec.eq_of_getLsbD_eq fun j hj => ?_
  rw [iopl, iopl, BitVec.getLsbD_extractLsb', BitVec.getLsbD_extractLsb', h (12 + j) (by omega)]

/-- The addresses pushes store to depend on the widths of the values alone. -/
theorem pushCells_addresses_congr {k : Stack} {vs ws : List Slot} (h : vs.map slotBytes = ws.map slotBytes) :
    (pushCells k vs).map (·.1) = (pushCells k ws).map (·.1) := by
  have hcells (a : Word) (bs cs : List Byte) (hl : bs.length = cs.length) :
      (cellsAt a bs).map (·.1) = (cellsAt a cs).map (·.1) := by
    induction bs generalizing a cs with
    | nil => rw [List.length_eq_zero_iff.1 hl.symm]
    | cons b bs ih =>
      cases cs with
      | nil => cases hl
      | cons c cs => exact congrArg (a :: ·) (ih (a + 1) cs (Nat.succ.inj hl))
  induction vs generalizing k ws with
  | nil => rw [List.map_eq_nil_iff.1 h.symm]
  | cons v vs ih =>
    cases ws with
    | nil => cases h
    | cons w ws =>
      obtain ⟨hv, hvs⟩ : slotBytes v = slotBytes w ∧ vs.map slotBytes = ws.map slotBytes := by simpa using h
      have hp : pushed k v = pushed k w := by rw [pushed, pushed, hv]
      rw [pushCells, pushCells, List.map_append, List.map_append, hp, ih hvs,
        hcells _ _ _ ((slotData_length v).trans (hv.trans (slotData_length w).symm))]

/-- The overlap test depends on addresses alone. -/
theorem overlapsEntry_congr {cells cells' : List (Word × Byte)} (h : cells.map (·.1) = cells'.map (·.1)) (ea : Word)
    (len : Nat) : overlapsEntry cells ea len = overlapsEntry cells' ea len := by
  have hmap (l : List (Word × Byte)) :
      overlapsEntry l ea len = (l.map (·.1)).any (fun a => decide ((a - ea).toNat < len)) := by
    rw [overlapsEntry, List.any_map]
    rfl
  rw [hmap, hmap, h]

/-- A task switch reads the task images alone (60_exceptions.md R138). -/
theorem endAlike_taskSwitch (s : State) (w : Word) (sel : Half) (ret : Word) :
    EndAlike (taskSwitch s sel ret) (taskSwitch (withEflags w s) sel ret) := by
  rcases taskSwitch_cases s sel ret with ⟨hn, e⟩ | ⟨t, old, ht, hold, ⟨f, hf, e⟩ | ⟨hr, e⟩⟩
  · rw [e, taskSwitch_of_not_found (s := withEflags w s) hn]
    rfl
  · rw [e, taskSwitch_of_raises (s := withEflags w s) ht hold hf]
    rfl
  · rw [e, taskSwitch_of_found (s := withEflags w s) ht hold hr]
    exact ⟨rfl, rfl, rfl, rfl, rfl, rfl, rfl, rfl, rfl, fun _ _ => rfl⟩

/-! #### What reads EFLAGS, and sees no IF -/

theorem slotBytes_valueSlot (wide : Bool) (v : Word) : slotBytes (valueSlot wide v) = if wide then 4 else 2 := by
  cases wide <;> rfl

section
variable {s : State} {w : Word} (h : AgreeButIf s.eflags w)
include h

theorem mode_withEflags : mode (withEflags w s) = mode s := by
  simp only [mode, withEflags, h.getFlag_eq (f := .vm) (by decide)]
  rfl

theorem segBase_withEflags (r : SegName) : segBase (withEflags w s) r = segBase s r := by
  simp only [segBase, mode_withEflags h]
  rfl

theorem nextOffset_withEflags (len : Nat) : nextOffset (withEflags w s) len = nextOffset s len := by
  simp only [nextOffset, mode_withEflags h]
  rfl

theorem v86Check_withEflags (kind : Kind) : v86Check (withEflags w s) kind = v86Check s kind := by
  simp only [v86Check, mode_withEflags h, show iopl (withEflags w s).eflags = iopl s.eflags from h.iopl_eq.symm]
  rfl

theorem handlerSegment_withEflags (g : Gate) : handlerSegment (withEflags w s) g = handlerSegment s g := by
  simp only [handlerSegment, mode_withEflags h]
  rfl

theorem handlerStack_withEflags (level : BitVec 2) : handlerStack (withEflags w s) level = handlerStack s level := by
  simp only [handlerStack, segBase_withEflags h]
  rfl

theorem usesV86Frame_withEflags (level : BitVec 2) : usesV86Frame (withEflags w s) level = usesV86Frame s level :=
  congrArg (decide (level < s.cpl) && ·) (h.getFlag_eq (f := .vm) (by decide)).symm

/-- The frame holds other flags, and takes the same bytes. -/
theorem slotBytes_gateFrame_withEflags (wide : Bool) (level : BitVec 2) (ret : Word) :
    (gateFrame s wide level ret).map slotBytes = (gateFrame (withEflags w s) wide level ret).map slotBytes := by
  simp only [gateFrame, usesV86Frame_withEflags h, List.map_append, List.map_cons, slotBytes_valueSlot]
  rfl

theorem realStack_withEflags : realStack (withEflags w s) = realStack s := by
  simp only [realStack, segBase_withEflags h]
  rfl

/-! #### The deliveries end alike -/

theorem nextAlike_enterGate (g : Gate) (hid : Hidden) (level : BitVec 2) (ss : SegReg) (k : Stack) (ret : Word) :
    NextAlike (enterGate s g hid level ss k ret) (enterGate (withEflags w s) g hid level ss k ret) := by
  have hseg (r : SegReg) : dataSegAfter s level r = dataSegAfter (withEflags w s) level r := by
    simp only [dataSegAfter, usesV86Frame_withEflags h]
  have hgpr : (enterGate s g hid level ss k ret).gpr = (enterGate (withEflags w s) g hid level ss k ret).gpr := by
    simp only [enterGate_gpr, pushedAll_eq, slotsBytes, slotBytes_gateFrame_withEflags h]
    rfl
  exact ⟨rfl, rfl, rfl, hseg s.ds, hseg s.es, hseg s.fs, hseg s.gs, hgpr, rfl, h.clearFlags (gateCleared g.kind)⟩

theorem endAlike_deliverThroughGate (n : Nat) (g : Gate) (ret : Word) :
    EndAlike (deliverThroughGate s n g ret) (deliverThroughGate (withEflags w s) n g ret) := by
  simp only [deliverThroughGate, handlerSegment_withEflags h]
  split
  · exact endAlike_stopOutcome _
  · simp only [handlerStack_withEflags h]
    split
    · exact endAlike_stopOutcome _
    · rw [overlapsEntry_congr (pushCells_addresses_congr (slotBytes_gateFrame_withEflags h _ _ _))]
      change EndAlike _ (if overlapsEntry _ (entryAddress s _ n) _ = true then _ else _)
      split
      · rfl
      · exact nextAlike_enterGate h g _ _ _ _ ret

theorem endAlike_deliverProtected (n : Nat) (kind : Kind) (ret : Word) :
    EndAlike (deliverProtected s n kind ret) (deliverProtected (withEflags w s) n kind ret) := by
  have hcheck : checkedGate (withEflags w s) n = checkedGate s n := rfl
  simp only [deliverProtected, hcheck]
  split
  · exact endAlike_stopOutcome _
  · split
    · exact endAlike_taskSwitch s w _ ret
    · exact endAlike_deliverThroughGate h n _ ret

theorem nextAlike_enterReal (ea ret : Word) : NextAlike (enterReal s ea ret) (enterReal (withEflags w s) ea ret) := by
  have hgpr : (enterReal s ea ret).gpr = (enterReal (withEflags w s) ea ret).gpr := by
    simp only [enterReal_gpr, pushedAll_eq, realStack_withEflags h]
    rfl
  exact ⟨rfl, rfl, rfl, rfl, rfl, rfl, rfl, hgpr, rfl, h.clearFlags realCleared⟩

theorem endAlike_deliverReal (n : Nat) (ret : Word) :
    EndAlike (deliverReal s n ret) (deliverReal (withEflags w s) n ret) := by
  have haddr : (realFrameCells s ret).map (·.1) = (realFrameCells (withEflags w s) ret).map (·.1) := by
    simp only [realFrameCells, realStack_withEflags h]
    exact pushCells_addresses_congr rfl
  unfold deliverReal
  rw [overlapsEntry_congr haddr]
  change EndAlike _ (if insideIdt s _ n = false then _ else if realFrameStraddles s = true then _
    else if overlapsEntry _ (entryAddress s _ n) _ = true then _ else _)
  split
  · rfl
  · split
    · rfl
    · split
      · rfl
      · exact nextAlike_enterReal h _ ret

theorem endAlike_deliver (n : Nat) (kind : Kind) (ret : Word) :
    EndAlike (deliver s n kind ret) (deliver (withEflags w s) n kind ret) := by
  simp only [deliver, mode_withEflags h]
  split
  · exact endAlike_deliverReal h n ret
  · exact endAlike_deliverProtected h n kind ret
  · exact endAlike_deliverProtected h n kind ret

theorem endAlike_execIntImm8 (ib : Byte) : EndAlike (execIntImm8 ib s) (execIntImm8 ib (withEflags w s)) := by
  simp only [execIntImm8, v86Check_withEflags h, nextOffset_withEflags h]
  split
  · exact endAlike_stopOutcome _
  · exact endAlike_deliver h _ .cd _

theorem endAlike_execInto : EndAlike (execInto s) (execInto (withEflags w s)) := by
  have hof : getFlag .ofl (withEflags w s).eflags = getFlag .ofl s.eflags := (h.getFlag_eq (by decide)).symm
  simp only [execInto, v86Check_withEflags h, nextOffset_withEflags h, hof]
  split
  · exact ⟨rfl, rfl, rfl, rfl, rfl, rfl, rfl, rfl, rfl, h⟩
  · split
    · exact endAlike_stopOutcome _
    · exact endAlike_deliver h 4 .ce _

theorem endAlike_exec (i : Instr) : EndAlike (exec i s) (exec i (withEflags w s)) := by
  cases i with
  | int3 =>
    rw [exec_int3, exec_int3, nextOffset_withEflags h]
    exact endAlike_deliver h 3 .cc _
  | intImm8 ib => exact endAlike_execIntImm8 h ib
  | into => exact endAlike_execInto h

end

/-- Settles O25: every function of a delivery sees the same of two words that agree but for IF, and the frames they
push, which differ, take the same bytes. -/
theorem deliveryDoesNotTestInterruptFlag : Obligations.DeliveryDoesNotTestInterruptFlag := by
  unfold Obligations.DeliveryDoesNotTestInterruptFlag
  intro i s
  exact endAlike_exec (s := withEflags (setFlag .ifl s.eflags) s) (agreeButIf_setFlag_clearFlag s.eflags) i

end Sys2Proof.Machine
end
